-- ==== Sys2Proof/Word.lean ====
section
/-! DEFINITION. The machine's word types: 32-bit register values and command words (10_state.md R32, 30_encoding.md R140), and 8-bit memory cells (20_memory.md R100). -/

namespace Sys2Proof

/-- A 32-bit register value or command word. -/
abbrev Word := BitVec 32

/-- A data-memory cell, 0..255. -/
abbrev Byte := BitVec 8

end Sys2Proof
end

