-- ==== Sys2Proof/Syntax.lean ====
section
/-! DEFINITION. The commands, one constructor for each row of spec/opcode_table.json (30_encoding.md R144). Register operands are implicit (R143), so a constructor carries only the immediate, where the row has one. -/

namespace Sys2Proof

/-- A command (30_encoding.md R144). -/
inductive Instr where
  /-- `NOP` (R390) -/
  | nop
  /-- `SRESET` (R391) -/
  | sreset
  /-- `CRC.INIT` (R203) -/
  | crcInit
  /-- `CRC.BYTE`, the data byte (R204) -/
  | crcByte (b : Byte)
  /-- `CRC.MEM` (R205) -/
  | crcMem
  /-- `CRC.FINAL` (R206) -/
  | crcFinal
  /-- `FR.START` (R232) -/
  | frStart
  /-- `FR.SIG` (R233) -/
  | frSig
  /-- `FR.CHUNK` (R234) -/
  | frChunk
  /-- `LD.HDR` (R270) -/
  | ldHdr
  /-- `LD.PLTE` (R274) -/
  | ldPlte
  /-- `LD.TRNS` (R276) -/
  | ldTrns
  /-- `ZB.APPEND` (R278) -/
  | zbAppend
  /-- `DEFILT` (R320) -/
  | defilt
  /-- `FLT.BYTE`, the filter type: every byte decodes, the command itself refuses 5..255 (R323) -/
  | fltByte (t : Byte)
  /-- `SAMPLE`, the bit depth: 1, 2, 4 or 8 (R324, R145) -/
  | sample (d : Byte)
  /-- `CONV` (R360) -/
  | conv
  deriving DecidableEq, Repr

end Sys2Proof
end

