-- ==== Sys2Proof/WellFormed.lean ====
section
/-! DEFINITION. Which commands have a word: the one operand check of the encoding (30_encoding.md R145) is `SAMPLE`'s depth. -/

namespace Sys2Proof

/-- The depths `SAMPLE` takes (30_encoding.md R142, R145). -/
def sampleDepthLegal (d : Byte) : Bool :=
  d == 1 || d == 2 || d == 4 || d == 8

/-- A command the block can accept (30_encoding.md R142, R145). -/
def Instr.wellFormed : Instr → Bool
  | .nop => true
  | .sreset => true
  | .crcInit => true
  | .crcByte _ => true
  | .crcMem => true
  | .crcFinal => true
  | .frStart => true
  | .frSig => true
  | .frChunk => true
  | .ldHdr => true
  | .ldPlte => true
  | .ldTrns => true
  | .zbAppend => true
  | .defilt => true
  | .fltByte _ => true
  | .sample d => sampleDepthLegal d
  | .conv => true

end Sys2Proof
end

