-- ==== Sys2Proof/Decode.lean ====
section
/-! DEFINITION. Decoding of an accepted command word, in the order of 30_encoding.md R145, and the encoder written from the same opcode map (R140, R144). -/

namespace Sys2Proof

/-- `OP`, bits 7:0 (30_encoding.md R140). -/
def wordOp (w : Word) : Byte := w.extractLsb' 0 8

/-- `IMM`, bits 15:8 (30_encoding.md R140). -/
def wordImm (w : Word) : Byte := w.extractLsb' 8 8

/-- `RSV`, bits 31:16 (30_encoding.md R140). -/
def wordRsv (w : Word) : BitVec 16 := w.extractLsb' 16 16

/-- Why a word is no command: the four failing steps of 30_encoding.md R145. -/
inductive DecodeError where
  /-- bits 31:16 are not zero -/
  | reservedBits
  /-- the opcode is one of the 239 unassigned values -/
  | unassignedOpcode
  /-- an immediate on an opcode without one -/
  | unusedImmediate
  /-- a `SAMPLE` depth other than 1, 2, 4, 8 -/
  | sampleDepth
  deriving DecidableEq, Repr

/-- The `BadCommand` sub-cause of a failing step (30_encoding.md R145). -/
def badCommandCause : DecodeError → Word
  | .reservedBits => 1
  | .unassignedOpcode => 2
  | .unusedImmediate => 3
  | .sampleDepth => 3

/-- A command that takes no immediate: `IMM` must be 0 (30_encoding.md R140, R145). -/
def noImmediate (imm : Byte) (i : Instr) : Except DecodeError Instr :=
  if imm = 0 then .ok i else .error .unusedImmediate

/-- The opcode map (30_encoding.md R144), with the immediate checks of R145. -/
def decodeOp (op imm : Byte) : Except DecodeError Instr :=
  match op.toNat with
  | 0x00 => noImmediate imm .nop
  | 0x01 => noImmediate imm .sreset
  | 0x10 => noImmediate imm .crcInit
  | 0x11 => .ok (.crcByte imm)
  | 0x12 => noImmediate imm .crcMem
  | 0x13 => noImmediate imm .crcFinal
  | 0x20 => noImmediate imm .frStart
  | 0x21 => noImmediate imm .frSig
  | 0x22 => noImmediate imm .frChunk
  | 0x30 => noImmediate imm .ldHdr
  | 0x31 => noImmediate imm .ldPlte
  | 0x32 => noImmediate imm .ldTrns
  | 0x33 => noImmediate imm .zbAppend
  | 0x40 => noImmediate imm .defilt
  | 0x41 => .ok (.fltByte imm)
  | 0x42 => if sampleDepthLegal imm then .ok (.sample imm) else .error .sampleDepth
  | 0x50 => noImmediate imm .conv
  | _ => .error .unassignedOpcode

/-- Decoding of an accepted word (30_encoding.md R145). -/
def decode (w : Word) : Except DecodeError Instr :=
  if wordRsv w ≠ 0 then .error .reservedBits else decodeOp (wordOp w) (wordImm w)

/-- The `OP` column (30_encoding.md R144). -/
def opcodeOf : Instr → Byte
  | .nop => 0x00
  | .sreset => 0x01
  | .crcInit => 0x10
  | .crcByte _ => 0x11
  | .crcMem => 0x12
  | .crcFinal => 0x13
  | .frStart => 0x20
  | .frSig => 0x21
  | .frChunk => 0x22
  | .ldHdr => 0x30
  | .ldPlte => 0x31
  | .ldTrns => 0x32
  | .zbAppend => 0x33
  | .defilt => 0x40
  | .fltByte _ => 0x41
  | .sample _ => 0x42
  | .conv => 0x50

/-- The immediate a command carries, 0 where its opcode takes none (30_encoding.md R140, R142). -/
def immediateOf : Instr → Byte
  | .crcByte b => b
  | .fltByte t => t
  | .sample d => d
  | .nop | .sreset | .crcInit | .crcMem | .crcFinal | .frStart | .frSig | .frChunk
  | .ldHdr | .ldPlte | .ldTrns | .zbAppend | .defilt | .conv => 0

/-- The command word: format `C` of 30_encoding.md R140. -/
def encode (i : Instr) : Word :=
  (0 : BitVec 16) ++ immediateOf i ++ opcodeOf i

/-- Whether the opcode takes an immediate, which its mask then leaves free (30_encoding.md R144). -/
def takesImmediate : Instr → Bool
  | .crcByte _ | .fltByte _ | .sample _ => true
  | .nop | .sreset | .crcInit | .crcMem | .crcFinal | .frStart | .frSig | .frChunk
  | .ldHdr | .ldPlte | .ldTrns | .zbAppend | .defilt | .conv => false

/-- The `mask` column (30_encoding.md R144). -/
def maskOf (i : Instr) : Word := if takesImmediate i then 0xFFFF00FF else 0xFFFFFFFF

/-- The `match` column (30_encoding.md R144). -/
def matchOf (i : Instr) : Word := (opcodeOf i).zeroExtend 32

/-- The command word a row's number stands for: `nbits` bits of it, every bit above 0. A command is one register word
(30_encoding.md R141), so there is no byte order to choose. -/
def tableWord (nbits w : Nat) : Word := BitVec.ofNat 32 (w % 2 ^ nbits)

/-- What the decoder reads from a word numbered as spec/opcode_table.json numbers it. -/
def decodeTableWord (nbits w : Nat) : Option Instr :=
  match decode (tableWord nbits w) with
  | .ok i => some i
  | .error _ => none

end Sys2Proof
end

