-- ==== Sys2Proof/Config.lean ====
section
/-! DEFINITION. The block's parameters (00_scope.md R9): the fixed ones as constants, the two OPEN ones as `Params`. -/

namespace Sys2Proof.Config

/-- `MAX_CHUNK_LEN`: 100 MiB, inclusive (R9, 92_eei_decisions.md D44). -/
def maxChunkLen : Nat := 104857600

/-- `SIGNATURE` (R9). -/
def signature : List Byte := [0x89, 0x50, 0x4E, 0x47, 0x0D, 0x0A, 0x1A, 0x0A]

/-- `CRC_POLY`, in the reversed form, used as written (R9, 90_conflicts.md C2). -/
def crcPoly : Word := 0xEDB88320

/-- `CRC_INIT` (R9). -/
def crcInit : Word := 0xFFFFFFFF

/-- `CRC_XOROUT` (R9). -/
def crcXorOut : Word := 0xFFFFFFFF

/-- `TAG_IHDR` (R9, D12). -/
def tagIhdr : Word := 0x49484452

/-- `TAG_PLTE` (R9, D12). -/
def tagPlte : Word := 0x504C5445

/-- `TAG_TRNS` (R9, D12). -/
def tagTrns : Word := 0x74524E53

/-- `TAG_IDAT` (R9, D12). -/
def tagIdat : Word := 0x49444154

/-- `TAG_IEND` (R9, D12). -/
def tagIend : Word := 0x49454E44

/-- Colour-mode codes: Gray, RGB, Palette, GrayAlpha, RGBA (R9, D13). -/
def colorGray : Byte := 0
@[inherit_doc colorGray] def colorRgb : Byte := 2
@[inherit_doc colorGray] def colorPalette : Byte := 3
@[inherit_doc colorGray] def colorGrayAlpha : Byte := 4
@[inherit_doc colorGray] def colorRgba : Byte := 6

/-- The supported compression code (R9, D13). -/
def compressionCode : Byte := 0

/-- The supported filter-method code (R9, D13). -/
def filterMethodCode : Byte := 0

/-- The supported interlace codes, none and Adam7 (R9, D13). `INTERLACE_POLICY` is `as_noninterlaced` (D14): no rule of
`DEFILT` or `CONV` reads the interlace code. -/
def interlaceCodes : List Byte := [0, 1]

/-- The constant `ID` reads (R2, R33). -/
def idValue : Word := 0x504E4701

/-- The two OPEN parameters of R9, an argument of the machine: `MEM_SIZE` with its bounds, and `REG_BASE`. The state
carries them unchanged (assumption log 1). -/
structure Params where
  memSize : Nat
  regBase : Nat
  memSize_ge : 16 ≤ memSize
  memSize_le : memSize ≤ 2 ^ 31
  deriving DecidableEq, Repr

/-- DESIGN CHOICE (assumption log 1): the parameters of `State.reset`. `MEM_SIZE` is the one 95_test_vectors.md uses. -/
def defaultParams : Params where
  memSize := 0x10000
  regBase := 0
  memSize_ge := by decide
  memSize_le := by decide

end Sys2Proof.Config
end

