-- ==== Sys2Proof/Machine/State.lean ====
section
/-! DEFINITION. The machine's state as plain data (10_state.md R30), its stop reasons, and the state after reset (R65). A register with reserved bits is held as its fields, each at its own width, so reserved bits read 0 by construction (R32). -/

namespace Sys2Proof.Machine

/-- Data memory: the listed bytes, sorted by address, none equal to what an unlisted byte reads as (20_memory.md R100). -/
abbrev Memory := List Host.Cell

/-- `CTRL` (10_state.md R34): bit 0 `IRQ_EN`. -/
structure Ctrl where
  irqEn : Bool
  deriving DecidableEq, Repr

/-- `STATUS` (10_state.md R35). -/
structure Status where
  busy : Bool
  done : Bool
  err : Bool
  overrun : Bool
  errCode : Byte
  deriving DecidableEq, Repr

/-- `SEQ.STATE` (10_state.md R45, 41_framer.md R231). The codes 6 and 7 never occur. -/
inductive SeqState where
  | idle
  | expectSig
  | expectIhdr
  | body
  | done
  | failed
  deriving DecidableEq, Repr

/-- `SEQ` (10_state.md R45). -/
structure Seq where
  state : SeqState
  seenPlte : Bool
  seenTrns : Bool
  seenIdat : Bool
  deriving DecidableEq, Repr

/-- `CHUNK_CLASS.CLASS` (10_state.md R51). The code 7 never occurs. -/
inductive ChunkClass where
  | noneYet
  | header
  | palette
  | transparency
  | imageData
  | endMarker
  | other
  deriving DecidableEq, Repr

/-- `CFG_VALID` (10_state.md R53). -/
structure CfgValid where
  hdr : Bool
  plte : Bool
  trns : Bool
  deriving DecidableEq, Repr

/-- `HDR_FMT` (10_state.md R56). -/
structure HdrFmt where
  depth : Byte
  color : Byte
  comp : Byte
  filt : Byte
  deriving DecidableEq, Repr

/-- A `PALETTE[i]` entry (10_state.md R59). -/
structure Rgb where
  red : Byte
  green : Byte
  blue : Byte
  deriving DecidableEq, Repr

/-- The configuration: header, palette and transparency registers (10_state.md R53 to R63). -/
structure ImageConfig where
  valid : CfgValid
  hdrWidth : Word
  hdrHeight : Word
  hdrFmt : HdrFmt
  hdrIl : Byte
  plteCount : BitVec 9
  palette : Vector Rgb 256
  trnsCount : BitVec 9
  trnsKey0 : BitVec 16
  trnsKey1 : BitVec 16
  trnsKey2 : BitVec 16
  alpha : Vector Byte 256
  deriving DecidableEq, Repr

/-- The configuration with every register 0 (10_state.md R65, 42_loaders.md R273). -/
def ImageConfig.cleared : ImageConfig where
  valid := ⟨false, false, false⟩
  hdrWidth := 0
  hdrHeight := 0
  hdrFmt := ⟨0, 0, 0, 0⟩
  hdrIl := 0
  plteCount := 0
  palette := Vector.replicate 256 ⟨0, 0, 0⟩
  trnsCount := 0
  trnsKey0 := 0
  trnsKey1 := 0
  trnsKey2 := 0
  alpha := Vector.replicate 256 0

/-- One action of the host (70_reset_and_hazards.md R460). Register accesses name a platform address and a width in
bytes, so that the accesses R32 refuses can be written down. -/
inductive HostAction where
  /-- read `width` bytes of the register window at platform address `addr` -/
  | readReg (addr width : Nat)
  /-- write `value` to the register window at platform address `addr`, as an access of `width` bytes -/
  | writeReg (addr width : Nat) (value : Word)
  /-- read one data-memory byte (20_memory.md R108) -/
  | readMem (addr : Nat)
  /-- write one data-memory byte (20_memory.md R108) -/
  | writeMem (addr : Nat) (value : Byte)
  /-- assert the hardware reset (70_reset_and_hazards.md R440) -/
  | hardwareReset
  deriving DecidableEq, Repr

/-- Which agent moves at a step (00_scope.md R6, R7). -/
inductive Turn where
  | engine
  | host (a : HostAction)
  deriving DecidableEq, Repr

/-- The registers of the window (10_state.md R32). -/
inductive Reg where
  | id | ctrl | status | cmd
  | arg0 | arg1 | arg2 | arg3
  | errInfo | result
  | crcState | crcOut
  | inPtr | inEnd | seq
  | chunkLen | chunkTag | chunkCrc | chunkCrcCalc | chunkClass | chunkPayload
  | zbBase | zbCap | zbLen
  | cfgValid | hdrWidth | hdrHeight | hdrFmt | hdrIl
  | plteCount | trnsCount | trnsKey0 | trnsKey1 | trnsKey2
  | palette (i : Byte)
  | alpha (i : Byte)
  deriving DecidableEq, Repr

/-- The machine's state: the block (10_state.md R30), its parameters (00_scope.md R9), and the host's side. -/
structure State where
  /-- `MEM_SIZE` and `REG_BASE`: no step changes them (assumption log 1) -/
  params : Config.Params
  /-- data memory `M` (R100) -/
  mem : Memory
  /-- R34 -/
  ctrl : Ctrl
  /-- R35 -/
  status : Status
  /-- R36 -/
  cmd : Word
  /-- R37 -/
  arg0 : Word
  /-- R37 -/
  arg1 : Word
  /-- R37 -/
  arg2 : Word
  /-- R37 -/
  arg3 : Word
  /-- R38 -/
  errInfo : Word
  /-- R39 -/
  result : Word
  /-- R40 -/
  crcState : Word
  /-- R41 -/
  crcOut : Word
  /-- R43 -/
  inPtr : Word
  /-- R44 -/
  inEnd : Word
  /-- R45 -/
  seq : Seq
  /-- R46 -/
  chunkLen : Word
  /-- R47 -/
  chunkTag : Word
  /-- R48 -/
  chunkCrc : Word
  /-- R49 -/
  chunkCrcCalc : Word
  /-- R51 -/
  chunkClass : ChunkClass
  /-- R52 -/
  chunkPayload : Word
  /-- R50 -/
  zbBase : Word
  /-- R50 -/
  zbCap : Word
  /-- R50 -/
  zbLen : Word
  /-- R53 to R63 -/
  cfg : ImageConfig
  /-- the pending-command latch (R64) -/
  latch : Option Word
  /-- the model's own: who moves next, and what the host does (assumption log 4) -/
  turns : List Turn
  /-- the model's own: what the last host read returned, a byte zero-extended (assumption log 5) -/
  readData : Option Word
  deriving DecidableEq, Repr

/-- Why the machine stops. Neither reason is reached from reset. -/
inductive Fault where
  /-- Raised by `DEFILT`, `CONV` and the transparency loader: `HDR_VALID = 1` with a colour mode and depth outside the
  table of 42_loaders.md R272, which 10_state.md R60 excludes. Safe: no run reaches such a state (assumption log 6). -/
  | headerNotLegal
  /-- Raised by `FR.SIG` and `FR.CHUNK`: `IN_END` is above `MEM_SIZE`, so the stream names addresses that do not exist,
  which 41_framer.md R232 excludes. Safe: no run reaches such a state (assumption log 7). -/
  | streamOutsideMemory
  deriving DecidableEq, Repr

/-- Why a step has no meaning. -/
inductive Refusal where
  /-- Raised by `exec` for an instruction with no meaning yet: no arm does. Safe. -/
  | notModelled (mnemonic : String)
  /-- Raised by a host register access that is not 32 bits wide or whose offset is not a multiple of 4 (10_state.md R32,
  20_memory.md R110). Safe. -/
  | accessNot32BitAligned
  /-- Raised by a host register access at a platform address outside the 4 KiB window (10_state.md R32): it is no access
  to the block. Safe (assumption log 9). -/
  | outsideWindow
  /-- Raised by a host register access while `BUSY = 1` other than those 70_reset_and_hazards.md R460 lists (10_state.md
  R67). Safe. -/
  | registerWhileBusy
  /-- Raised by a host data-memory access while `BUSY = 1` (20_memory.md R111). Safe. -/
  | memoryWhileBusy
  /-- Raised by a host data-memory access at an address at or above `MEM_SIZE`, where no cell exists (20_memory.md R100).
  Safe (assumption log 10). -/
  | outsideMemory
  deriving DecidableEq, Repr

/-- The error kinds (60_exceptions.md R401). -/
inductive ErrorKind where
  | signatureMismatch
  | truncatedOrCorrupt
  | invalidHeader
  | invalidPalette
  | invalidTransparency
  | outOfOrderChunk
  /-- reserved for the host: the block never raises it (00_scope.md R8) -/
  | decompressionFailed
  | truncatedImageData
  | invalidFilterType
  | conversionFailed
  | allocationFailed
  | badCommand
  | badAddress
  deriving DecidableEq, Repr

/-- What the body of a command answers before completion: the state with its writes, an error with its detail value
(00_scope.md R14), or a stop of the model. -/
inductive Res (α : Type) where
  | ok (a : α)
  | raise (e : ErrorKind) (info : Word)
  | stop (f : Fault)
  deriving DecidableEq, Repr

/-- The colour modes (00_scope.md R9, R17). -/
inductive ColorMode where
  | gray
  | rgb
  | palette
  | grayAlpha
  | rgba
  deriving DecidableEq, Repr

/-- The filter types (43_defilter.md R311). -/
inductive FilterType where
  | none
  | sub
  | up
  | average
  | paeth
  deriving DecidableEq, Repr

/-- Width, height, colour mode and depth of the loaded image (43_defilter.md R310, 44_convert.md R351). -/
structure ImageShape where
  width : Nat
  height : Nat
  mode : ColorMode
  depth : Nat
  deriving DecidableEq, Repr

/-- The state after a hardware reset with the given parameters and data memory (10_state.md R65, 70_reset_and_hazards.md
R440: data memory is not reset). -/
def State.resetWith (p : Config.Params) (m : Memory) : State where
  params := p
  mem := m
  ctrl := ⟨false⟩
  status := ⟨false, false, false, false, 0⟩
  cmd := 0
  arg0 := 0
  arg1 := 0
  arg2 := 0
  arg3 := 0
  errInfo := 0
  result := 0
  crcState := 0xFFFFFFFF
  crcOut := 0
  inPtr := 0
  inEnd := 0
  seq := ⟨.idle, false, false, false⟩
  chunkLen := 0
  chunkTag := 0
  chunkCrc := 0
  chunkCrcCalc := 0
  chunkClass := .noneYet
  chunkPayload := 0
  zbBase := 0
  zbCap := 0
  zbLen := 0
  cfg := ImageConfig.cleared
  latch := none
  turns := []
  readData := none

/-- The machine right after power-on reset (10_state.md R65). DESIGN CHOICE (assumption logs 1, 2, 4, 5): the parameters
are `Config.defaultParams`, no memory byte is listed (`State.powerOn` is power-on with any bytes), nothing is scheduled and nothing has been read. -/
def State.reset : State := State.resetWith Config.defaultParams []

end Sys2Proof.Machine
end

