-- ==== Sys2Proof/Machine/Flags.lean ====
section
/-! DEFINITION. Every computation of the `STATUS` fields (10_state.md R35, 60_exceptions.md R410 to R414), the error codes (R401) and the interrupt line (R412). -/

namespace Sys2Proof.Machine

/-- `STATUS.ERRCODE` of each kind (60_exceptions.md R401). -/
def errorCode : ErrorKind → Byte
  | .signatureMismatch => 1
  | .truncatedOrCorrupt => 2
  | .invalidHeader => 3
  | .invalidPalette => 4
  | .invalidTransparency => 5
  | .outOfOrderChunk => 6
  | .decompressionFailed => 7
  | .truncatedImageData => 8
  | .invalidFilterType => 9
  | .conversionFailed => 10
  | .allocationFailed => 11
  | .badCommand => 12
  | .badAddress => 13

/-- A command is accepted (10_state.md R35). -/
def statusAccept (st : Status) : Status :=
  { st with busy := true, done := false, err := false, errCode := 0 }

/-- A command completes without error (60_exceptions.md R411). -/
def statusSuccess (st : Status) : Status :=
  { st with busy := false, done := true, err := false, errCode := 0 }

/-- A command completes with an error (60_exceptions.md R410). -/
def statusError (e : ErrorKind) (st : Status) : Status :=
  { st with busy := false, done := true, err := true, errCode := errorCode e }

/-- A command word is lost because the block is busy (60_exceptions.md R414). -/
def statusOverrun (st : Status) : Status := { st with overrun := true }

/-- A host write of `v`: write one to clear `DONE` (bit 1) and `OVERRUN` (bit 3), every other bit ignored
(60_exceptions.md R413). -/
def statusWriteOneToClear (v : Word) (st : Status) : Status :=
  { st with done := st.done && !v.getLsbD 1, overrun := st.overrun && !v.getLsbD 3 }

/-- The interrupt line: `STATUS.DONE and CTRL.IRQ_EN` (60_exceptions.md R412). -/
def State.irq (s : State) : Bool := s.status.done && s.ctrl.irqEn

end Sys2Proof.Machine
end

