-- ==== Sys2Proof/Machine/Ops.lean ====
section
/-! DEFINITION. The named operations over data memory (00_scope.md R13), the register tables, acceptance (10_state.md R36), the two completions (60_exceptions.md R410, R411) and the register reset (10_state.md R65). -/

namespace Sys2Proof.Machine

/-! ### Data memory -/

/-- What a byte of data memory that is not listed reads as. DESIGN CHOICE (assumption log 2): it is the way memory is
written down, and the contents after power-on are drawn freely all the same (`State.powerOn`, 20_memory.md R102). -/
def unlistedByte (_a : Nat) : Byte := 0

/-- The canonical form: addresses strictly rising, and no entry equal to what an unlisted byte reads as. -/
abbrev Memory.wf (m : Memory) : Prop :=
  m.Pairwise (fun c d => c.1 < d.1) ∧ ∀ c ∈ m, c.2 ≠ unlistedByte c.1

/-- `MemRead8` (00_scope.md R13). -/
def memByte : Memory → Nat → Byte
  | [], a => unlistedByte a
  | (k, b) :: m, a => if a = k then b else memByte m a

/-- One byte written, in canonical form. -/
def setByte : Memory → Nat → Byte → Memory
  | [], a, b => if b = unlistedByte a then [] else [(a, b)]
  | (k, c) :: m, a, b =>
    if a < k then (if b = unlistedByte a then (k, c) :: m else (a, b) :: (k, c) :: m)
    else if a = k then (if b = unlistedByte a then m else (a, b) :: m)
    else (k, c) :: setByte m a b

/-- Data memory of `n` bytes with the byte `drawn a` at every address `a` (20_memory.md R102). -/
def drawMemory (drawn : Nat → Byte) : (n : Nat) → Memory
  | 0 => []
  | n + 1 => setByte (drawMemory drawn n) n (drawn n)

/-- `MemRead` (00_scope.md R13): the `n` bytes from address `a`. -/
def memRead (m : Memory) : (a n : Nat) → List Byte
  | _, 0 => []
  | a, n + 1 => memByte m a :: memRead m (a + 1) n

/-- `MemWrite` (00_scope.md R13): the bytes from address `a` on. -/
def memWrite (m : Memory) : (a : Nat) → List Byte → Memory
  | _, [] => m
  | a, b :: bs => memWrite (setByte m a b) (a + 1) bs

/-- `BE16` (00_scope.md R13). -/
def be16 (m : Memory) (a : Nat) : BitVec 16 := memByte m a ++ memByte m (a + 1)

/-- `BE32` (00_scope.md R13). -/
def be32 (m : Memory) (a : Nat) : Word :=
  memByte m a ++ memByte m (a + 1) ++ memByte m (a + 2) ++ memByte m (a + 3)

/-- `InMem(addr, n)`, exact (00_scope.md R13, R10). -/
def inMem (s : State) (a n : Nat) : Bool := a + n ≤ s.params.memSize

/-! ### The 256-entry tables -/

/-- A table that holds the list's entries and then `d` (42_loaders.md R275, R277). -/
def tableOf {α : Type} (d : α) (xs : List α) : Vector α 256 :=
  ⟨⟨xs.take 256 ++ List.replicate (256 - xs.length) d⟩, by simp; omega⟩

/-- `TABLE[i]` (00_scope.md R12). -/
def tableAt {α : Type} (t : Vector α 256) (i : Byte) : α :=
  t[i.toNat]'(by have := i.isLt; omega)

/-! ### Acceptance, completion, reset -/

/-- A command word is accepted: latched, `CMD`, `STATUS` and `ERR_INFO` updated (10_state.md R36). -/
def acceptCommand (s : State) (w : Word) : State :=
  { s with latch := some w, cmd := w, status := statusAccept s.status, errInfo := 0 }

/-- `complete()`, the success completion (60_exceptions.md R411). -/
def complete (s : State) : State :=
  { s with status := statusSuccess s.status, latch := none }

/-- `raise E(info)`, the error completion: the block's form of taking an exception (60_exceptions.md R410). It saves no
program counter and enters no handler, since the block has neither, and there is no return from it (R415). -/
def raiseError (s : State) (e : ErrorKind) (info : Word) : State :=
  { s with status := statusError e s.status, errInfo := info, latch := none }

/-- `fail(E, i)` of the framer: the stream is FAILED, then the error is raised (41_framer.md R239). -/
def failStream (s : State) (e : ErrorKind) (info : Word) : State :=
  raiseError { s with seq := { s.seq with state := .failed } } e info

/-- A command's outcome from its body's: the writes and the success completion, or the error completion of the state
the command began in (00_scope.md R14, 60_exceptions.md R417). -/
def finish (s : State) : Res State → Host.Outcome State Fault Refusal
  | .ok t => .next (complete t)
  | .raise e info => .next (raiseError s e info)
  | .stop f => .fault f

/-- The same inside the framer: an error goes through `fail` (41_framer.md R234, R239). -/
def finishFramer (s : State) : Res State → Host.Outcome State Fault Refusal
  | .ok t => .next (complete t)
  | .raise e info => .next (failStream s e info)
  | .stop f => .fault f

/-- A state after power-on: every register at its reset value (10_state.md R65), and every byte of data memory drawn
freely (20_memory.md R102). `State.reset` is the one of these whose bytes are all 0 (`State.powerOn_zero`). -/
def State.powerOn (p : Config.Params) (drawn : Nat → Byte) : State :=
  State.resetWith p (drawMemory drawn p.memSize)

/-- Every register at its reset value and the latch empty; data memory, the parameters and the host's side are kept
(10_state.md R65, 70_reset_and_hazards.md R440). -/
def resetRegisters (s : State) : State :=
  { State.resetWith s.params s.mem with turns := s.turns, readData := s.readData }

end Sys2Proof.Machine
end

