-- ==== Sys2Proof/Machine/Operands.lean ====
section
/-! DEFINITION. The operand forms: the implicit register operands (30_encoding.md R143), the byte operands of `FLT.BYTE` (43_defilter.md R323), and the image quantities every command takes from the header registers (00_scope.md R16, 42_loaders.md R272). -/

namespace Sys2Proof.Machine

/-- `ARG0` as a source, payload, stream or row address (30_encoding.md R143). -/
def srcAddr (s : State) : Nat := s.arg0.toNat

/-- `ARG1` as a length or pixel index (30_encoding.md R143). -/
def srcLen (s : State) : Nat := s.arg1.toNat

/-- `ARG2` as a destination address (30_encoding.md R143). -/
def dstAddr (s : State) : Nat := s.arg2.toNat

/-- `ARG3` as a destination capacity (30_encoding.md R143). -/
def dstCap (s : State) : Nat := s.arg3.toNat

/-- Bits 7:0 of an argument register; bits 31:8 are ignored (43_defilter.md R323). -/
def lowByte (w : Word) : Byte := w.extractLsb' 0 8

/-- The colour mode of a code (00_scope.md R9). -/
def colorModeOf (c : Byte) : Option ColorMode :=
  if c = Config.colorGray then some .gray
  else if c = Config.colorRgb then some .rgb
  else if c = Config.colorPalette then some .palette
  else if c = Config.colorGrayAlpha then some .grayAlpha
  else if c = Config.colorRgba then some .rgba
  else none

/-- The legal bit depths of a colour mode (42_loaders.md R272). -/
def legalDepths : ColorMode → List Nat
  | .gray => [1, 2, 4, 8, 16]
  | .rgb => [8, 16]
  | .palette => [1, 2, 4, 8]
  | .grayAlpha => [8, 16]
  | .rgba => [8, 16]

/-- Whether a depth is legal for a mode (42_loaders.md R272). -/
def depthLegal (mode : ColorMode) (d : Nat) : Bool := (legalDepths mode).contains d

/-- `channels` (00_scope.md R16). -/
def channels : ColorMode → Nat
  | .gray => 1
  | .palette => 1
  | .grayAlpha => 2
  | .rgb => 3
  | .rgba => 4

/-- `bytes_per_line`, rounded up, exact (00_scope.md R16, R10). -/
def bytesPerLine (sh : ImageShape) : Nat := (sh.width * channels sh.mode * sh.depth + 7) / 8

/-- `bpp` (00_scope.md R16). -/
def bytesPerPixel (sh : ImageShape) : Nat :=
  if sh.depth < 8 then 1 else channels sh.mode * (sh.depth / 8)

/-- The image the header registers describe. `none` when colour mode and depth are not a pair of 42_loaders.md R272,
which 10_state.md R60 excludes while `HDR_VALID = 1`. -/
def imageShape (cfg : ImageConfig) : Option ImageShape :=
  match colorModeOf cfg.hdrFmt.color with
  | none => none
  | some mode =>
    if depthLegal mode cfg.hdrFmt.depth.toNat then
      some ⟨cfg.hdrWidth.toNat, cfg.hdrHeight.toNat, mode, cfg.hdrFmt.depth.toNat⟩
    else none

/-- `DEFILT` and `CONV` run only with no stream open or a finished one (43_defilter.md R321). -/
def streamClosed (s : State) : Bool := s.seq.state = .idle || s.seq.state = .done

end Sys2Proof.Machine
end

