-- ==== Sys2Proof/Machine/Control.lean ====
section
/-! DEFINITION. The control commands `NOP` and `SRESET` (49_control.md). -/

namespace Sys2Proof.Machine

/-- `NOP` (49_control.md R390). -/
def execNop (s : State) : Host.Outcome State Fault Refusal := finish s (.ok s)

/-- `SRESET` (49_control.md R391): `CTRL` is kept, `CMD` is left at the command's own word. -/
def execSreset (s : State) : Host.Outcome State Fault Refusal :=
  finish s (.ok { resetRegisters s with ctrl := s.ctrl, cmd := 0x00000001 })

end Sys2Proof.Machine
end

