-- ==== Sys2Proof/Machine/Defilter.lean ====
section
/-! DEFINITION. The defilter engine and the sub-byte unpacker (43_defilter.md). -/

namespace Sys2Proof.Machine

/-- The filter type of a tag byte or immediate, 0 to 4 (43_defilter.md R311). -/
def filterTypeOf (t : Byte) : Option FilterType :=
  match t.toNat with
  | 0 => some .none
  | 1 => some .sub
  | 2 => some .up
  | 3 => some .average
  | 4 => some .paeth
  | _ => Option.none

/-- `paeth(a, b, c)`, over the integers (43_defilter.md R312). -/
def paeth (a b c : Byte) : Byte :=
  let p : Int := (a.toNat : Int) + b.toNat - c.toNat
  let pa := (p - a.toNat).natAbs
  let pb := (p - b.toNat).natAbs
  let pc := (p - c.toNat).natAbs
  if pa ≤ pb ∧ pa ≤ pc then a else if pb ≤ pc then b else c

/-- `pred(t, a, b, c)`; the Average sum is exact (43_defilter.md R311). -/
def predictor (t : FilterType) (a b c : Byte) : Byte :=
  match t with
  | .none => 0
  | .sub => a
  | .up => b
  | .average => BitVec.ofNat 8 ((a.toNat + b.toNat) / 2)
  | .paeth => paeth a b c

/-- `recon(t, f, a, b, c)`, modulo 256 (43_defilter.md R313). -/
def recon (t : FilterType) (f a b c : Byte) : Byte := f + predictor t a b c

/-- The row from byte `x` on, given the bytes already reconstructed, newest first, and the reconstructed row above
(43_defilter.md R313, R314). A neighbour outside the row or above the first row is 0. -/
def reconRowFrom (t : FilterType) (bpp : Nat) (above : List Byte) : (x : Nat) → (newest : List Byte) → List Byte → List Byte
  | _, _, [] => []
  | x, newest, f :: fs =>
    let left := if bpp ≤ x then newest.getD (bpp - 1) 0 else 0
    let up := above.getD x 0
    let upperLeft := if bpp ≤ x then above.getD (x - bpp) 0 else 0
    let r := recon t f left up upperLeft
    r :: reconRowFrom t bpp above (x + 1) (r :: newest) fs

/-- One row reconstructed (43_defilter.md R313). -/
def reconRow (t : FilterType) (bpp : Nat) (above fs : List Byte) : List Byte :=
  reconRowFrom t bpp above 0 [] fs

/-- All rows in order, each over the reconstructed row above it (43_defilter.md R320). -/
def reconRows (bpp : Nat) : (above : List Byte) → List (FilterType × List Byte) → List Byte
  | _, [] => []
  | above, (t, fs) :: rows =>
    let row := reconRow t bpp above fs
    row ++ reconRows bpp row rows

/-- Scanlines `y`, `y + 1`, … (`k` of them) of the input at `src`, or the lowest row whose tag is above 4
(43_defilter.md R310, R320). -/
def readScanlines (m : Memory) (src bpl : Nat) : (y k : Nat) → Except Nat (List (FilterType × List Byte))
  | _, 0 => .ok []
  | y, k + 1 =>
    match filterTypeOf (memByte m (src + y * (bpl + 1))) with
    | Option.none => .error y
    | some t =>
      match readScanlines m src bpl (y + 1) k with
      | .error e => .error e
      | .ok rows => .ok ((t, memRead m (src + y * (bpl + 1) + 1) bpl) :: rows)

/-- `DEFILT` once its header is known to be legal (43_defilter.md R320). -/
def defiltImage (s : State) (sh : ImageShape) : Res State :=
  if srcLen s < sh.height * (bytesPerLine sh + 1) then .raise .truncatedImageData 1
  else if dstCap s < sh.height * bytesPerLine sh then .raise .allocationFailed 2
  else match readScanlines s.mem (srcAddr s) (bytesPerLine sh) 0 sh.height with
    | .error y => .raise .invalidFilterType (BitVec.ofNat 32 y)
    | .ok rows => .ok { s with mem := memWrite s.mem (dstAddr s) (reconRows (bytesPerPixel sh) [] rows) }

/-- The body of `DEFILT` (43_defilter.md R320, R321). -/
def defiltBody (s : State) : Res State :=
  if streamClosed s = false then .raise .badCommand 5
  else if s.cfg.valid.hdr = false then .raise .invalidHeader 8
  else if inMem s (srcAddr s) (srcLen s) = false then .raise .badAddress 1
  else if inMem s (dstAddr s) (dstCap s) = false then .raise .badAddress 3
  else match imageShape s.cfg with
    | none => .stop .headerNotLegal
    | some sh => defiltImage s sh

/-- `DEFILT` (43_defilter.md R320). -/
def execDefilt (s : State) : Host.Outcome State Fault Refusal := finish s (defiltBody s)

/-- The body of `FLT.BYTE` (43_defilter.md R323). -/
def fltByteBody (t : Byte) (s : State) : Res State :=
  match filterTypeOf t with
  | none => .raise .invalidFilterType 0
  | some ft =>
    .ok { s with
      result := (recon ft (lowByte s.arg0) (lowByte s.arg1) (lowByte s.arg2) (lowByte s.arg3)).zeroExtend 32 }

/-- `FLT.BYTE` (43_defilter.md R323). -/
def execFltByte (t : Byte) (s : State) : Host.Outcome State Fault Refusal := finish s (fltByteBody t s)

/-- `extract_sample(r, i, d)`, most significant bits first (43_defilter.md R315). -/
def extractSample (m : Memory) (r i d : Nat) : Byte :=
  let bitpos := i * d
  (memByte m (r + bitpos / 8) >>> (8 - d - bitpos % 8)) &&& BitVec.ofNat 8 (2 ^ d - 1)

/-- The body of `SAMPLE` (43_defilter.md R324). A depth other than 1, 2, 4, 8 is no command (30_encoding.md R145). -/
def sampleBody (d : Byte) (s : State) : Res State :=
  if sampleDepthLegal d = false then .raise .badCommand 3
  else if inMem s (srcAddr s + srcLen s * d.toNat / 8) 1 then
    .ok { s with result := (extractSample s.mem (srcAddr s) (srcLen s) d.toNat).zeroExtend 32 }
  else .raise .badAddress 1

/-- `SAMPLE` (43_defilter.md R324). -/
def execSample (d : Byte) (s : State) : Host.Outcome State Fault Refusal := finish s (sampleBody d s)

end Sys2Proof.Machine
end

