-- ==== Sys2Proof/Machine/Convert.lean ====
section
/-! DEFINITION. The pixel-format converter (44_convert.md). -/

namespace Sys2Proof.Machine

/-- Key transparency, Gray (44_convert.md R359): the raw sample, zero-extended to 16 bits. -/
def grayAlphaOf (cfg : ImageConfig) (smp : BitVec 16) : Byte :=
  if cfg.valid.trns = true ∧ smp = cfg.trnsKey0 then 0 else 255

/-- Key transparency, RGB (44_convert.md R359). -/
def rgbAlphaOf (cfg : ImageConfig) (r g b : BitVec 16) : Byte :=
  if cfg.valid.trns = true ∧ r = cfg.trnsKey0 ∧ g = cfg.trnsKey1 ∧ b = cfg.trnsKey2 then 0 else 255

/-- The high byte of a 16-bit sample (44_convert.md R354, R355). -/
def highByte (v : BitVec 16) : Byte := v.extractLsb' 8 8

/-- A sub-byte gray sample scaled to 0..255 (44_convert.md R353). -/
def scaleSample (smp : Byte) (d : Nat) : Byte := BitVec.ofNat 8 (smp.toNat * 255 / (2 ^ d - 1))

/-- A gray pixel in output order (44_convert.md R352, R353, R354). -/
def grayPixel (g a : Byte) : List Byte := [g, g, g, a]

/-- Pixel `x` of a Gray row (44_convert.md R351, R353, R354). -/
def pixelGray (cfg : ImageConfig) (m : Memory) (d row x : Nat) : List Byte :=
  if d < 8 then
    let smp := extractSample m row x d
    grayPixel (scaleSample smp d) (grayAlphaOf cfg (smp.zeroExtend 16))
  else if d = 8 then
    let smp := memByte m (row + x)
    grayPixel smp (grayAlphaOf cfg (smp.zeroExtend 16))
  else
    let smp := be16 m (row + 2 * x)
    grayPixel (highByte smp) (grayAlphaOf cfg smp)

/-- Pixel `x` of an RGB row (44_convert.md R351, R355). -/
def pixelRgb (cfg : ImageConfig) (m : Memory) (d row x : Nat) : List Byte :=
  if d = 8 then
    let r := memByte m (row + 3 * x)
    let g := memByte m (row + 3 * x + 1)
    let b := memByte m (row + 3 * x + 2)
    [r, g, b, rgbAlphaOf cfg (r.zeroExtend 16) (g.zeroExtend 16) (b.zeroExtend 16)]
  else
    let r := be16 m (row + 6 * x)
    let g := be16 m (row + 6 * x + 2)
    let b := be16 m (row + 6 * x + 4)
    [highByte r, highByte g, highByte b, rgbAlphaOf cfg r g b]

/-- The colour of a palette index, black outside the palette (44_convert.md R356). -/
def paletteColor (cfg : ImageConfig) (idx : Byte) : Rgb :=
  if idx.toNat < cfg.plteCount.toNat then tableAt cfg.palette idx else ⟨0, 0, 0⟩

/-- The alpha of a palette index, opaque outside the alpha table (44_convert.md R356). -/
def paletteAlpha (cfg : ImageConfig) (idx : Byte) : Byte :=
  if cfg.valid.trns = true ∧ idx.toNat < cfg.trnsCount.toNat then tableAt cfg.alpha idx else 255

/-- Pixel `x` of a Palette row (44_convert.md R351, R356). -/
def pixelPalette (cfg : ImageConfig) (m : Memory) (d row x : Nat) : List Byte :=
  let idx := extractSample m row x d
  let c := paletteColor cfg idx
  [c.red, c.green, c.blue, paletteAlpha cfg idx]

/-- Pixel `x` of a GrayAlpha row (44_convert.md R351, R357). -/
def pixelGrayAlpha (m : Memory) (d row x : Nat) : List Byte :=
  if d = 8 then grayPixel (memByte m (row + 2 * x)) (memByte m (row + 2 * x + 1))
  else grayPixel (memByte m (row + 4 * x)) (memByte m (row + 4 * x + 2))

/-- Pixel `x` of an RGBA row (44_convert.md R351, R358). -/
def pixelRgba (m : Memory) (d row x : Nat) : List Byte :=
  if d = 8 then
    [memByte m (row + 4 * x), memByte m (row + 4 * x + 1), memByte m (row + 4 * x + 2), memByte m (row + 4 * x + 3)]
  else
    [memByte m (row + 8 * x), memByte m (row + 8 * x + 2), memByte m (row + 8 * x + 4), memByte m (row + 8 * x + 6)]

/-- The four output bytes of pixel `x` of the row that starts at `row`: red, green, blue, alpha (44_convert.md R352 to
R359). -/
def pixelAt (cfg : ImageConfig) (m : Memory) (sh : ImageShape) (row x : Nat) : List Byte :=
  match sh.mode with
  | .gray => pixelGray cfg m sh.depth row x
  | .rgb => pixelRgb cfg m sh.depth row x
  | .palette => pixelPalette cfg m sh.depth row x
  | .grayAlpha => pixelGrayAlpha m sh.depth row x
  | .rgba => pixelRgba m sh.depth row x

/-- Pixels `x`, `x + 1`, … (`k` of them) of a row (44_convert.md R360). -/
def convPixels (cfg : ImageConfig) (m : Memory) (sh : ImageShape) (row : Nat) : (x k : Nat) → List Byte
  | _, 0 => []
  | x, k + 1 => pixelAt cfg m sh row x ++ convPixels cfg m sh row (x + 1) k

/-- Rows `y`, `y + 1`, … (`k` of them) of the source at `src` (44_convert.md R351, R360). -/
def convRows (cfg : ImageConfig) (m : Memory) (sh : ImageShape) (src : Nat) : (y k : Nat) → List Byte
  | _, 0 => []
  | y, k + 1 =>
    convPixels cfg m sh (src + y * bytesPerLine sh) 0 sh.width ++ convRows cfg m sh src (y + 1) k

/-- `CONV` once its header is known to be legal (44_convert.md R360). -/
def convImage (s : State) (sh : ImageShape) : Res State :=
  if srcLen s < sh.height * bytesPerLine sh then .raise .conversionFailed 1
  else if sh.mode = .palette ∧ s.cfg.valid.plte = false then .raise .conversionFailed 2
  else if dstCap s < sh.width * sh.height * 4 then .raise .allocationFailed 3
  else .ok { s with mem := memWrite s.mem (dstAddr s) (convRows s.cfg s.mem sh (srcAddr s) 0 sh.height) }

/-- The body of `CONV` (44_convert.md R360). -/
def convBody (s : State) : Res State :=
  if streamClosed s = false then .raise .badCommand 5
  else if s.cfg.valid.hdr = false then .raise .conversionFailed 3
  else if inMem s (srcAddr s) (srcLen s) = false then .raise .badAddress 1
  else if inMem s (dstAddr s) (dstCap s) = false then .raise .badAddress 3
  else match imageShape s.cfg with
    | none => .stop .headerNotLegal
    | some sh => convImage s sh

/-- `CONV` (44_convert.md R360). -/
def execConv (s : State) : Host.Outcome State Fault Refusal := finish s (convBody s)

end Sys2Proof.Machine
end

