-- ==== Sys2Proof/Machine/Crc.lean ====
section
/-! DEFINITION. The CRC function (40_crc.md R200 to R202) and the CRC unit's commands (R203 to R206). -/

namespace Sys2Proof.Machine

/-- One of the eight steps of a table entry (40_crc.md R200). -/
def crcTableStep (c : Word) : Word :=
  if c.getLsbD 0 then Config.crcPoly ^^^ (c >>> 1) else c >>> 1

/-- `crcTableStep` done `k` times. -/
def crcTableSteps : Nat → Word → Word
  | 0, c => c
  | k + 1, c => crcTableSteps k (crcTableStep c)

/-- The constant CRC table `T[n]` (40_crc.md R200, 10_state.md R42). -/
def crcTable (n : Byte) : Word := crcTableSteps 8 (n.zeroExtend 32)

/-- `crc_update(c, b)` (40_crc.md R201). -/
def crcUpdate (c : Word) (b : Byte) : Word :=
  crcTable ((c ^^^ b.zeroExtend 32).extractLsb' 0 8) ^^^ (c >>> 8)

/-- `fold(crc_update, c, bs)` (40_crc.md R202). -/
def crcFold (c : Word) (bs : List Byte) : Word := bs.foldl crcUpdate c

/-- `crc32(bs)` (40_crc.md R202). -/
def crc32 (bs : List Byte) : Word := crcFold Config.crcInit bs ^^^ Config.crcXorOut

/-- `CRC.INIT` (40_crc.md R203). -/
def execCrcInit (s : State) : Host.Outcome State Fault Refusal :=
  finish s (.ok { s with crcState := Config.crcInit })

/-- `CRC.BYTE` (40_crc.md R204). -/
def execCrcByte (b : Byte) (s : State) : Host.Outcome State Fault Refusal :=
  finish s (.ok { s with crcState := crcUpdate s.crcState b })

/-- The body of `CRC.MEM` (40_crc.md R205). -/
def crcMemBody (s : State) : Res State :=
  if inMem s (srcAddr s) (srcLen s) then
    .ok { s with crcState := crcFold s.crcState (memRead s.mem (srcAddr s) (srcLen s)) }
  else .raise .badAddress 1

/-- `CRC.MEM` (40_crc.md R205). -/
def execCrcMem (s : State) : Host.Outcome State Fault Refusal := finish s (crcMemBody s)

/-- `CRC.FINAL` (40_crc.md R206). -/
def execCrcFinal (s : State) : Host.Outcome State Fault Refusal :=
  finish s (.ok { s with crcOut := s.crcState ^^^ Config.crcXorOut })

end Sys2Proof.Machine
end

