-- ==== Sys2Proof/Machine/Loaders.lean ====
section
/-! DEFINITION. The configuration loaders: their bodies, each checking everything before it writes (42_loaders.md R281), and their commands. -/

namespace Sys2Proof.Machine

/-- `clear_config()` (42_loaders.md R273). -/
def clearConfig (s : State) : State := { s with cfg := ImageConfig.cleared }

/-- A loader command runs its body on `ARG0`, `ARG1`, which must be inside data memory (42_loaders.md R270, R274, R276,
R278). -/
def onPayload (body : State → Nat → Nat → Res State) (s : State) : Res State :=
  if inMem s (srcAddr s) (srcLen s) then body s (srcAddr s) (srcLen s) else .raise .badAddress 1

/-- The checks of `header_load` on the parsed fields, in order (42_loaders.md R271): the sub-cause of the first that
fails. -/
def headerCheck (w h : Word) (f : HdrFmt) (il : Byte) : Option Word :=
  if w = 0 ∨ h = 0 then some 2
  else if f.comp ≠ Config.compressionCode then some 3
  else if f.filt ≠ Config.filterMethodCode then some 4
  else if il ∉ Config.interlaceCodes then some 5
  else match colorModeOf f.color with
    | none => some 6
    | some mode => if depthLegal mode f.depth.toNat then none else some 7

/-- The parsed format fields of a header payload (42_loaders.md R271). -/
def headerFmt (m : Memory) (a : Nat) : HdrFmt where
  depth := memByte m (a + 8)
  color := memByte m (a + 9)
  comp := memByte m (a + 10)
  filt := memByte m (a + 11)

/-- `header_load(a, n)` (42_loaders.md R271). -/
def headerLoad (s : State) (a n : Nat) : Res State :=
  if n ≠ 13 then .raise .invalidHeader 1
  else
    let w := be32 s.mem a
    let h := be32 s.mem (a + 4)
    let f := headerFmt s.mem a
    let il := memByte s.mem (a + 12)
    match headerCheck w h f il with
    | some info => .raise .invalidHeader info
    | none =>
      .ok { s with
        cfg := { ImageConfig.cleared with
          valid := ⟨true, false, false⟩, hdrWidth := w, hdrHeight := h, hdrFmt := f, hdrIl := il } }

/-- The RGB entries of a palette payload, in order (42_loaders.md R275). -/
def paletteEntries (m : Memory) : (a k : Nat) → List Rgb
  | _, 0 => []
  | a, k + 1 => ⟨memByte m a, memByte m (a + 1), memByte m (a + 2)⟩ :: paletteEntries m (a + 3) k

/-- `palette_load(a, n)` (42_loaders.md R275). -/
def paletteLoad (s : State) (a n : Nat) : Res State :=
  if s.cfg.valid.hdr = false then .raise .outOfOrderChunk 7
  else if s.cfg.hdrFmt.color ≠ Config.colorPalette then .raise .outOfOrderChunk 4
  else if n % 3 ≠ 0 then .raise .invalidPalette 1
  else if n > 768 then .raise .invalidPalette 2
  else
    .ok { s with
      cfg := { s.cfg with
        palette := tableOf ⟨0, 0, 0⟩ (paletteEntries s.mem a (n / 3))
        plteCount := BitVec.ofNat 9 (n / 3)
        valid := { s.cfg.valid with plte := true } } }

/-- The transparency registers written together (42_loaders.md R277). -/
def writeTransparency (s : State) (k0 k1 k2 : BitVec 16) (al : List Byte) : State :=
  { s with
    cfg := { s.cfg with
      trnsKey0 := k0
      trnsKey1 := k1
      trnsKey2 := k2
      trnsCount := BitVec.ofNat 9 al.length
      alpha := tableOf 0 al
      valid := { s.cfg.valid with trns := true } } }

/-- `trns_load(a, n)` (42_loaders.md R277). -/
def trnsLoad (s : State) (a n : Nat) : Res State :=
  if s.cfg.valid.hdr = false then .raise .outOfOrderChunk 7
  else match colorModeOf s.cfg.hdrFmt.color with
    | none => .stop .headerNotLegal
    | some .grayAlpha => .raise .invalidTransparency 1
    | some .rgba => .raise .invalidTransparency 1
    | some .gray =>
      if n ≠ 2 then .raise .invalidTransparency 2
      else .ok (writeTransparency s (be16 s.mem a) 0 0 [])
    | some .rgb =>
      if n ≠ 6 then .raise .invalidTransparency 2
      else .ok (writeTransparency s (be16 s.mem a) (be16 s.mem (a + 2)) (be16 s.mem (a + 4)) [])
    | some .palette =>
      if n < 1 ∨ n > 256 then .raise .invalidTransparency 2
      else if s.cfg.valid.plte = true ∧ n > s.cfg.plteCount.toNat then .raise .invalidTransparency 3
      else .ok (writeTransparency s 0 0 0 (memRead s.mem a n))

/-- `zb_append(a, n)` (42_loaders.md R279). -/
def zbAppend (s : State) (a n : Nat) : Res State :=
  if inMem s s.zbBase.toNat s.zbCap.toNat = false then .raise .badAddress 2
  else if s.zbLen.toNat + n > s.zbCap.toNat then .raise .allocationFailed 1
  else
    .ok { s with
      mem := memWrite s.mem (s.zbBase.toNat + s.zbLen.toNat) (memRead s.mem a n)
      zbLen := BitVec.ofNat 32 (s.zbLen.toNat + n) }

/-- `LD.HDR` (42_loaders.md R270). -/
def execLdHdr (s : State) : Host.Outcome State Fault Refusal := finish s (onPayload headerLoad s)

/-- `LD.PLTE` (42_loaders.md R274). -/
def execLdPlte (s : State) : Host.Outcome State Fault Refusal := finish s (onPayload paletteLoad s)

/-- `LD.TRNS` (42_loaders.md R276). -/
def execLdTrns (s : State) : Host.Outcome State Fault Refusal := finish s (onPayload trnsLoad s)

/-- `ZB.APPEND` (42_loaders.md R278). -/
def execZbAppend (s : State) : Host.Outcome State Fault Refusal := finish s (onPayload zbAppend s)

end Sys2Proof.Machine
end

