-- ==== Sys2Proof/Machine/Framer.lean ====
section
/-! DEFINITION. The chunk framer and its sequencer (41_framer.md). -/

namespace Sys2Proof.Machine

/-- `classify(tag)` (41_framer.md R235). -/
def classify (tag : Word) : ChunkClass :=
  if tag = Config.tagIhdr then .header
  else if tag = Config.tagPlte then .palette
  else if tag = Config.tagTrns then .transparency
  else if tag = Config.tagIdat then .imageData
  else if tag = Config.tagIend then .endMarker
  else .other

/-- `check_order(s, cls)` for the sequencer states EXPECT_IHDR and BODY: the sub-cause of the first check that fails
(41_framer.md R236). -/
def checkOrder (q : Seq) (cls : ChunkClass) : Option Word :=
  if q.state = .expectIhdr ∧ cls ≠ .header then some 1
  else if q.state = .body ∧ cls = .header then some 2
  else if q.state = .body ∧ cls = .palette ∧ q.seenPlte = true then some 3
  else if q.state = .body ∧ cls = .transparency ∧ q.seenTrns = true then some 3
  else if q.state = .body ∧ cls = .endMarker ∧ q.seenIdat = false then some 5
  else none

/-- `seq_advance(cls)` (41_framer.md R238). -/
def seqAdvance (q : Seq) : ChunkClass → Seq
  | .header => { q with state := .body }
  | .palette => { q with seenPlte := true }
  | .transparency => { q with seenTrns := true }
  | .imageData => { q with seenIdat := true }
  | .endMarker => { q with state := .done }
  | .other => q
  | .noneYet => q

/-- The loader body a chunk's payload goes to (41_framer.md R237). -/
def dispatchChunk (cls : ChunkClass) (s : State) (a n : Nat) : Res State :=
  match cls with
  | .header => headerLoad s a n
  | .palette => paletteLoad s a n
  | .transparency => trnsLoad s a n
  | .imageData => zbAppend s a n
  | .endMarker => .ok s
  | .other => .ok s
  | .noneYet => .ok s

/-- `FR.START` on a stream inside data memory (41_framer.md R232). -/
def openStream (s : State) (a n : Nat) : State :=
  { clearConfig s with
    inPtr := BitVec.ofNat 32 a
    inEnd := BitVec.ofNat 32 (a + n)
    seq := ⟨.expectSig, false, false, false⟩
    chunkLen := 0
    chunkTag := 0
    chunkCrc := 0
    chunkCrcCalc := 0
    chunkClass := .noneYet
    chunkPayload := 0
    zbLen := 0 }

/-- The body of `FR.START` (41_framer.md R232). -/
def frStartBody (s : State) : Res State :=
  if inMem s (srcAddr s) (srcLen s) then .ok (openStream s (srcAddr s) (srcLen s))
  else .raise .badAddress 1

/-- `FR.START` (41_framer.md R232). -/
def execFrStart (s : State) : Host.Outcome State Fault Refusal := finish s (frStartBody s)

/-- The whole stream range lies in data memory, as `FR.START` checked (41_framer.md R232, R230). -/
def streamInMem (s : State) : Bool := inMem s 0 s.inEnd.toNat

/-- The body of `FR.SIG` in state EXPECT_SIG (41_framer.md R233). -/
def frSigBody (s : State) : Res State :=
  if streamInMem s = false then .stop .streamOutsideMemory
  else if s.inPtr.toNat + 8 > s.inEnd.toNat then .raise .signatureMismatch 1
  else if memRead s.mem s.inPtr.toNat 8 ≠ Config.signature then .raise .signatureMismatch 2
  else
    .ok { s with
      inPtr := BitVec.ofNat 32 (s.inPtr.toNat + 8)
      seq := { s.seq with state := .expectIhdr } }

/-- `FR.SIG` (41_framer.md R233). The wrong state is `BadCommand(4)` and no failure of the parse (R239). -/
def execFrSig (s : State) : Host.Outcome State Fault Refusal :=
  match s.seq.state with
  | .expectSig => finishFramer s (frSigBody s)
  | .idle | .expectIhdr | .body | .done | .failed => finish s (.raise .badCommand 4)

/-- The bytes the chunk's CRC covers: tag then payload (41_framer.md R234). -/
def chunkBytes (s : State) (p len : Nat) : List Byte := memRead s.mem (p + 4) (4 + len)

/-- The framing checks at `p`, before the payload is read: the sub-cause of the first that fails (41_framer.md R234). -/
def frameCheck (s : State) (p : Nat) : Option Word :=
  if p + 8 > s.inEnd.toNat then some 1
  else if (be32 s.mem p).toNat > Config.maxChunkLen then some 2
  else if p + 12 + (be32 s.mem p).toNat > s.inEnd.toNat then some 1
  else none

/-- The register writes of an accepted chunk (41_framer.md R234, R238), on top of its loader's. -/
def acceptChunk (s : State) (p len : Nat) (tag stored : Word) (cls : ChunkClass) : State :=
  { s with
    inPtr := BitVec.ofNat 32 (p + 12 + len)
    chunkLen := BitVec.ofNat 32 len
    chunkTag := tag
    chunkCrc := stored
    chunkClass := cls
    chunkPayload := BitVec.ofNat 32 (p + 8)
    seq := seqAdvance s.seq cls }

/-- Order check, dispatch and register writes of a chunk whose CRC is right (41_framer.md R234, R236 to R238). -/
def frAccept (s : State) (p len : Nat) (tag stored : Word) : Res State :=
  match checkOrder s.seq (classify tag) with
  | some info => .raise .outOfOrderChunk info
  | none =>
    match dispatchChunk (classify tag) s (p + 8) len with
    | .ok t => .ok (acceptChunk t p len tag stored (classify tag))
    | .raise e info => .raise e info
    | .stop f => .stop f

/-- The CRC comparison and what follows, with `CHUNK_CRC_CALC` already written (41_framer.md R234). -/
def frCheckCrc (s : State) (p len : Nat) (tag stored : Word) : Res State :=
  if s.chunkCrcCalc ≠ stored then .raise .truncatedOrCorrupt 3 else frAccept s p len tag stored

/-- `FR.CHUNK` in state EXPECT_IHDR or BODY (41_framer.md R234). A failure after the CRC step keeps the written
`CHUNK_CRC_CALC` (R239). -/
def frChunkOpen (s : State) : Host.Outcome State Fault Refusal :=
  if streamInMem s = false then finishFramer s (.stop .streamOutsideMemory)
  else match frameCheck s s.inPtr.toNat with
    | some info => finishFramer s (.raise .truncatedOrCorrupt info)
    | none =>
      let p := s.inPtr.toNat
      let len := (be32 s.mem p).toNat
      let s1 := { s with chunkCrcCalc := crc32 (chunkBytes s p len) }
      finishFramer s1 (frCheckCrc s1 p len (be32 s.mem (p + 4)) (be32 s.mem (p + 8 + len)))

/-- `FR.CHUNK` (41_framer.md R234). The wrong state is `BadCommand(4)`, and a chunk after the end marker fails the
stream. -/
def execFrChunk (s : State) : Host.Outcome State Fault Refusal :=
  match s.seq.state with
  | .idle | .expectSig | .failed => finish s (.raise .badCommand 4)
  | .done => finishFramer s (.raise .outOfOrderChunk 6)
  | .expectIhdr | .body => frChunkOpen s

end Sys2Proof.Machine
end

