-- ==== Sys2Proof/Machine/Dispatch.lean ====
section
/-! DEFINITION. What each command does: one arm per constructor of Instr. -/

namespace Sys2Proof.Machine

def exec (i : Instr) (s : State) : Host.Outcome State Fault Refusal :=
  match i with
  | .nop => Sys2Proof.Machine.execNop s
  | .sreset => Sys2Proof.Machine.execSreset s
  | .crcInit => Sys2Proof.Machine.execCrcInit s
  | .crcByte b => Sys2Proof.Machine.execCrcByte b s
  | .crcMem => Sys2Proof.Machine.execCrcMem s
  | .crcFinal => Sys2Proof.Machine.execCrcFinal s
  | .frStart => Sys2Proof.Machine.execFrStart s
  | .frSig => Sys2Proof.Machine.execFrSig s
  | .frChunk => Sys2Proof.Machine.execFrChunk s
  | .ldHdr => Sys2Proof.Machine.execLdHdr s
  | .ldPlte => Sys2Proof.Machine.execLdPlte s
  | .ldTrns => Sys2Proof.Machine.execLdTrns s
  | .zbAppend => Sys2Proof.Machine.execZbAppend s
  | .defilt => Sys2Proof.Machine.execDefilt s
  | .fltByte t => Sys2Proof.Machine.execFltByte t s
  | .sample d => Sys2Proof.Machine.execSample d s
  | .conv => Sys2Proof.Machine.execConv s

end Sys2Proof.Machine
end

