-- ==== Sys2Proof/Machine/HostPort.lean ====
section
/-! DEFINITION. The host's side of the block: the register window (10_state.md R32), the data-memory byte port (20_memory.md R108), the hardware reset (70_reset_and_hazards.md R440), and what each host action does (R460). -/

namespace Sys2Proof.Machine

/-- `SEQ.STATE` codes (10_state.md R45). -/
def seqStateCode : SeqState → BitVec 3
  | .idle => 0
  | .expectSig => 1
  | .expectIhdr => 2
  | .body => 3
  | .done => 4
  | .failed => 5

/-- `CHUNK_CLASS.CLASS` codes (10_state.md R51). -/
def chunkClassCode : ChunkClass → BitVec 3
  | .noneYet => 0
  | .header => 1
  | .palette => 2
  | .transparency => 3
  | .imageData => 4
  | .endMarker => 5
  | .other => 6

/-- One bit as a field. -/
def bit (b : Bool) : BitVec 1 := BitVec.ofBool b

/-- `CTRL` as read (10_state.md R34). -/
def ctrlWord (c : Ctrl) : Word := (0 : BitVec 31) ++ bit c.irqEn

/-- `STATUS` as read (10_state.md R35). -/
def statusWord (st : Status) : Word :=
  (0 : BitVec 16) ++ st.errCode ++ (0 : BitVec 4) ++ bit st.overrun ++ bit st.err ++ bit st.done ++ bit st.busy

/-- `SEQ` as read (10_state.md R45). -/
def seqWord (q : Seq) : Word :=
  (0 : BitVec 25) ++ bit q.seenIdat ++ bit q.seenTrns ++ bit q.seenPlte ++ (0 : BitVec 1) ++ seqStateCode q.state

/-- `CFG_VALID` as read (10_state.md R53). -/
def cfgValidWord (v : CfgValid) : Word := (0 : BitVec 29) ++ bit v.trns ++ bit v.plte ++ bit v.hdr

/-- `HDR_FMT` as read (10_state.md R56). -/
def hdrFmtWord (f : HdrFmt) : Word := f.filt ++ f.comp ++ f.color ++ f.depth

/-- `PALETTE[i]` as read (10_state.md R59). -/
def rgbWord (c : Rgb) : Word := (0 : BitVec 8) ++ c.blue ++ c.green ++ c.red

/-- The register at an offset of the window, `none` where no register is listed (10_state.md R32). -/
def regAt (off : Nat) : Option Reg :=
  match off with
  | 0x000 => some .id
  | 0x004 => some .ctrl
  | 0x008 => some .status
  | 0x00C => some .cmd
  | 0x010 => some .arg0
  | 0x014 => some .arg1
  | 0x018 => some .arg2
  | 0x01C => some .arg3
  | 0x020 => some .errInfo
  | 0x024 => some .result
  | 0x030 => some .crcState
  | 0x034 => some .crcOut
  | 0x040 => some .inPtr
  | 0x044 => some .inEnd
  | 0x048 => some .seq
  | 0x050 => some .chunkLen
  | 0x054 => some .chunkTag
  | 0x058 => some .chunkCrc
  | 0x05C => some .chunkCrcCalc
  | 0x060 => some .chunkClass
  | 0x064 => some .chunkPayload
  | 0x070 => some .zbBase
  | 0x074 => some .zbCap
  | 0x078 => some .zbLen
  | 0x080 => some .cfgValid
  | 0x084 => some .hdrWidth
  | 0x088 => some .hdrHeight
  | 0x08C => some .hdrFmt
  | 0x090 => some .hdrIl
  | 0x094 => some .plteCount
  | 0x098 => some .trnsCount
  | 0x09C => some .trnsKey0
  | 0x0A0 => some .trnsKey1
  | 0x0A4 => some .trnsKey2
  | off =>
    if off % 4 ≠ 0 then none
    else if 0x400 ≤ off ∧ off < 0x800 then some (.palette (BitVec.ofNat 8 ((off - 0x400) / 4)))
    else if 0x800 ≤ off ∧ off < 0xC00 then some (.alpha (BitVec.ofNat 8 ((off - 0x800) / 4)))
    else none

/-- What a register reads as (10_state.md R33 to R63). -/
def readReg (s : State) : Reg → Word
  | .id => Config.idValue
  | .ctrl => ctrlWord s.ctrl
  | .status => statusWord s.status
  | .cmd => s.cmd
  | .arg0 => s.arg0
  | .arg1 => s.arg1
  | .arg2 => s.arg2
  | .arg3 => s.arg3
  | .errInfo => s.errInfo
  | .result => s.result
  | .crcState => s.crcState
  | .crcOut => s.crcOut
  | .inPtr => s.inPtr
  | .inEnd => s.inEnd
  | .seq => seqWord s.seq
  | .chunkLen => s.chunkLen
  | .chunkTag => s.chunkTag
  | .chunkCrc => s.chunkCrc
  | .chunkCrcCalc => s.chunkCrcCalc
  | .chunkClass => (chunkClassCode s.chunkClass).zeroExtend 32
  | .chunkPayload => s.chunkPayload
  | .zbBase => s.zbBase
  | .zbCap => s.zbCap
  | .zbLen => s.zbLen
  | .cfgValid => cfgValidWord s.cfg.valid
  | .hdrWidth => s.cfg.hdrWidth
  | .hdrHeight => s.cfg.hdrHeight
  | .hdrFmt => hdrFmtWord s.cfg.hdrFmt
  | .hdrIl => s.cfg.hdrIl.zeroExtend 32
  | .plteCount => s.cfg.plteCount.zeroExtend 32
  | .trnsCount => s.cfg.trnsCount.zeroExtend 32
  | .trnsKey0 => s.cfg.trnsKey0.zeroExtend 32
  | .trnsKey1 => s.cfg.trnsKey1.zeroExtend 32
  | .trnsKey2 => s.cfg.trnsKey2.zeroExtend 32
  | .palette i => rgbWord (tableAt s.cfg.palette i)
  | .alpha i => (tableAt s.cfg.alpha i).zeroExtend 32

/-- A host write of `CMD`: accepted when the block is idle, else lost with `OVERRUN` set (10_state.md R36,
60_exceptions.md R414). -/
def writeCmd (s : State) (w : Word) : State :=
  if s.status.busy then { s with status := statusOverrun s.status } else acceptCommand s w

/-- What a host write of a register does; read-only registers ignore it (10_state.md R32 to R63). -/
def writeReg (s : State) (r : Reg) (v : Word) : State :=
  match r with
  | .ctrl => { s with ctrl := ⟨v.getLsbD 0⟩ }
  | .status => { s with status := statusWriteOneToClear v s.status }
  | .cmd => writeCmd s v
  | .arg0 => { s with arg0 := v }
  | .arg1 => { s with arg1 := v }
  | .arg2 => { s with arg2 := v }
  | .arg3 => { s with arg3 := v }
  | .crcState => { s with crcState := v }
  | .zbBase => { s with zbBase := v }
  | .zbCap => { s with zbCap := v }
  | .zbLen => { s with zbLen := v }
  | .id | .errInfo | .result | .crcOut | .inPtr | .inEnd | .seq | .chunkLen | .chunkTag | .chunkCrc | .chunkCrcCalc
  | .chunkClass | .chunkPayload | .cfgValid | .hdrWidth | .hdrHeight | .hdrFmt | .hdrIl | .plteCount | .trnsCount
  | .trnsKey0 | .trnsKey1 | .trnsKey2 | .palette _ | .alpha _ => s

/-- Registers the host may read while a command runs (10_state.md R67). -/
def readableWhileBusy (r : Option Reg) : Bool :=
  r = some .id || r = some .ctrl || r = some .status || r = some .cmd

/-- Registers the host may write while a command runs (10_state.md R67). -/
def writableWhileBusy (r : Option Reg) : Bool :=
  r = some .ctrl || r = some .status || r = some .cmd

/-- The window offset of a register access, or why the access has no meaning (10_state.md R32, 20_memory.md R110). -/
def windowOffset (s : State) (addr width : Nat) : Except Refusal Nat :=
  if addr < s.params.regBase ∨ s.params.regBase + 0x1000 ≤ addr then .error .outsideWindow
  else if width ≠ 4 ∨ (addr - s.params.regBase) % 4 ≠ 0 then .error .accessNot32BitAligned
  else .ok (addr - s.params.regBase)

/-- A host register read; an offset with no register reads 0 (10_state.md R32, R67). -/
def hostReadReg (s : State) (addr width : Nat) : Host.Outcome State Fault Refusal :=
  match windowOffset s addr width with
  | .error r => .refused r
  | .ok off =>
    if s.status.busy = true ∧ readableWhileBusy (regAt off) = false then .refused .registerWhileBusy
    else match regAt off with
      | none => .next { s with readData := some 0 }
      | some r => .next { s with readData := some (readReg s r) }

/-- A host register write; an offset with no register ignores it (10_state.md R32, R67). -/
def hostWriteReg (s : State) (addr width : Nat) (v : Word) : Host.Outcome State Fault Refusal :=
  match windowOffset s addr width with
  | .error r => .refused r
  | .ok off =>
    if s.status.busy = true ∧ writableWhileBusy (regAt off) = false then .refused .registerWhileBusy
    else match regAt off with
      | none => .next s
      | some r => .next (writeReg s r v)

/-- A host read of one data-memory byte (20_memory.md R108, R111). -/
def hostReadMem (s : State) (a : Nat) : Host.Outcome State Fault Refusal :=
  if s.status.busy then .refused .memoryWhileBusy
  else if inMem s a 1 then .next { s with readData := some ((memByte s.mem a).zeroExtend 32) }
  else .refused .outsideMemory

/-- A host write of one data-memory byte (20_memory.md R108, R111). -/
def hostWriteMem (s : State) (a : Nat) (b : Byte) : Host.Outcome State Fault Refusal :=
  if s.status.busy then .refused .memoryWhileBusy
  else if inMem s a 1 then .next { s with mem := setByte s.mem a b }
  else .refused .outsideMemory

/-- One host action (70_reset_and_hazards.md R460). -/
def hostStep (a : HostAction) (s : State) : Host.Outcome State Fault Refusal :=
  match a with
  | .readReg addr width => hostReadReg s addr width
  | .writeReg addr width v => hostWriteReg s addr width v
  | .readMem addr => hostReadMem s addr
  | .writeMem addr b => hostWriteMem s addr b
  | .hardwareReset => .next (resetRegisters s)

end Sys2Proof.Machine
end

