-- ==== Sys2Proof/Machine/Step.lean ====
section
/-! DEFINITION. One step of the machine: the engine's, or a scheduled action of the host (00_scope.md R6, R7, 70_reset_and_hazards.md R460). -/

namespace Sys2Proof.Machine

/-- The engine's step: take the latched word, decode it, run it; a word that is no command is `BadCommand`
(30_encoding.md R145). Enabled exactly when the latch is full: with an empty latch the block is idle and holds its state
(70_reset_and_hazards.md R460, 60_exceptions.md R422). -/
def engineStep (s : State) : Host.Outcome State Fault Refusal :=
  match s.latch with
  | none => .next s
  | some w =>
    match decode w with
    | .error e => finish s (.raise .badCommand (badCommandCause e))
    | .ok i => exec i s

/-- One step. The schedule says who moves; with nothing scheduled the engine moves (assumption log 4). -/
def step (s : State) : Host.Outcome State Fault Refusal :=
  match s.turns with
  | [] => engineStep s
  | .engine :: ts => engineStep { s with turns := ts }
  | .host a :: ts => hostStep a { s with turns := ts }

/-- `s` with the command word of `nbits` bits accepted as a host write of `CMD` to an idle block accepts it (10_state.md
R36), and the engine's turn scheduled next, so that `step` runs exactly that command. -/
def State.withFetchWord (s : State) (nbits w : Nat) : State :=
  { acceptCommand s (tableWord nbits w) with turns := .engine :: s.turns }

end Sys2Proof.Machine
end

