-- ==== Sys2Proof/Safety.lean ====
section
/-! DEFINITION. What counts as a good state of the block, and the terms the statements use: the two completions written out, the flip of one bit, and the neighbours of a byte in an image. -/

namespace Sys2Proof.Machine

/-- The invariants of the configuration registers. -/
structure ConfigInv (c : ImageConfig) : Prop where
  /-- 10_state.md R60: a valid header passed every check of 42_loaders.md R271 -/
  hdrLegal : c.valid.hdr = true →
    c.hdrWidth ≠ 0 ∧ c.hdrHeight ≠ 0 ∧ c.hdrFmt.comp = 0 ∧ c.hdrFmt.filt = 0 ∧ (c.hdrIl = 0 ∨ c.hdrIl = 1) ∧
      (imageShape c).isSome = true
  /-- 10_state.md R66, first line -/
  plteMode : c.valid.plte = true → c.valid.hdr = true ∧ c.hdrFmt.color = 3
  /-- 10_state.md R66, second line -/
  trnsMode : c.valid.trns = true →
    c.valid.hdr = true ∧ (c.hdrFmt.color = 0 ∨ c.hdrFmt.color = 2 ∨ c.hdrFmt.color = 3)
  /-- 10_state.md R66, third line -/
  trnsCountPalette : c.valid.trns = true → c.hdrFmt.color = 3 → 1 ≤ c.trnsCount.toNat
  /-- 10_state.md R61: no alpha entries in Gray and RGB modes -/
  trnsCountKey : c.valid.trns = true → c.hdrFmt.color ≠ 3 → c.trnsCount = 0
  /-- 10_state.md R66, third line -/
  trnsNone : c.valid.trns = false → c.trnsCount = 0
  /-- 10_state.md R66, fourth line -/
  plteNone : c.valid.plte = false → c.plteCount = 0
  /-- 10_state.md R58 -/
  plteCountLe : c.plteCount.toNat ≤ 256
  /-- 10_state.md R61, R66 -/
  trnsCountLe : c.trnsCount.toNat ≤ 256
  /-- 10_state.md R59: entries at or above `PLTE_COUNT` are 0 -/
  paletteTail : ∀ i : Byte, c.plteCount.toNat ≤ i.toNat → tableAt c.palette i = ⟨0, 0, 0⟩
  /-- 10_state.md R63: entries at or above `TRNS_COUNT` are 0 -/
  alphaTail : ∀ i : Byte, c.trnsCount.toNat ≤ i.toNat → tableAt c.alpha i = 0

/-- The states a run can be in. -/
structure BlockInv (s : State) : Prop where
  /-- data memory is in canonical form -/
  memWf : Memory.wf s.mem
  /-- 20_memory.md R100: only addresses below `MEM_SIZE` exist -/
  memInRange : ∀ c ∈ s.mem, c.1 < s.params.memSize
  /-- 10_state.md R43 -/
  ptrLeEnd : s.inPtr.toNat ≤ s.inEnd.toNat
  /-- 41_framer.md R232: the stream lies in data memory -/
  endInMem : s.inEnd.toNat ≤ s.params.memSize
  /-- 10_state.md R64, R35: the latch is visible through `BUSY` -/
  busyLatch : s.status.busy = s.latch.isSome
  /-- 10_state.md R36: `CMD` is the accepted word -/
  cmdLatch : ∀ w, s.latch = some w → s.cmd = w
  /-- 10_state.md R35, R36: acceptance clears `DONE` and `ERR` until completion -/
  busyClear : s.status.busy = true → s.status.done = false ∧ s.status.err = false
  /-- 10_state.md R35, R38: no error, no code and no detail -/
  noError : s.status.err = false → s.status.errCode = 0 ∧ s.errInfo = 0
  /-- 60_exceptions.md R401: the codes the block writes -/
  errorCodes : s.status.err = true → 1 ≤ s.status.errCode.toNat ∧ s.status.errCode.toNat ≤ 13 ∧ s.status.errCode ≠ 7
  /-- 10_state.md R39: `RESULT` is zero-extended from 8 bits -/
  resultByte : s.result.toNat < 256
  /-- 10_state.md R66, fifth line -/
  seqHeader : s.seq.state = .body ∨ s.seq.state = .done → s.cfg.valid.hdr = true
  /-- 10_state.md R66, sixth line -/
  seqDone : s.seq.state = .done → s.seq.seenIdat = true
  /-- the configuration registers' own -/
  cfgInv : ConfigInv s.cfg

/-- The success completion of 60_exceptions.md R411, written out. -/
def successNext (s : State) : State :=
  { s with status := ⟨false, true, false, s.status.overrun, 0⟩, latch := none }

/-- The error completion of 60_exceptions.md R410 with a code and a detail value, written out. -/
def errorNext (s : State) (code : Byte) (info : Word) : State :=
  { s with status := ⟨false, true, true, s.status.overrun, code⟩, errInfo := info, latch := none }

/-- The framer's failure of 41_framer.md R239, written out. -/
def failedNext (s : State) (code : Byte) (info : Word) : State :=
  errorNext { s with seq := { s.seq with state := .failed } } code info

/-- One bit of a byte changed (40_crc.md R207). -/
def flipBit (b : Byte) (k : Fin 8) : Byte := b ^^^ (1#8 <<< k.val)

/-- `left(y, x)` over the bytes of an image (43_defilter.md R314). -/
def leftOf (bpp : Nat) (px : Nat → Nat → Byte) (y x : Nat) : Byte := if bpp ≤ x then px y (x - bpp) else 0

/-- `above(y, x)` (43_defilter.md R314). -/
def aboveOf (px : Nat → Nat → Byte) (y x : Nat) : Byte := if 1 ≤ y then px (y - 1) x else 0

/-- `upper_left(y, x)` (43_defilter.md R314). -/
def upperLeftOf (bpp : Nat) (px : Nat → Nat → Byte) (y x : Nat) : Byte :=
  if 1 ≤ y ∧ bpp ≤ x then px (y - 1) (x - bpp) else 0

/-- The prediction of byte `x` of row `y` from its neighbours (43_defilter.md R311, R314). -/
def predictedAt (t : FilterType) (bpp : Nat) (px : Nat → Nat → Byte) (y x : Nat) : Byte :=
  predictor t (leftOf bpp px y x) (aboveOf px y x) (upperLeftOf bpp px y x)

/-- Every check of `DEFILT` passes (43_defilter.md R320) on an image of shape `sh`. -/
structure DefiltReady (s : State) (sh : ImageShape) : Prop where
  closed : s.seq.state = .idle ∨ s.seq.state = .done
  header : s.cfg.valid.hdr = true
  srcInMem : s.arg0.toNat + s.arg1.toNat ≤ s.params.memSize
  dstInMem : s.arg2.toNat + s.arg3.toNat ≤ s.params.memSize
  shape : imageShape s.cfg = some sh
  enough : sh.height * (bytesPerLine sh + 1) ≤ s.arg1.toNat
  room : sh.height * bytesPerLine sh ≤ s.arg3.toNat
  tags : ∀ y < sh.height, (memByte s.mem (s.arg0.toNat + y * (bytesPerLine sh + 1))).toNat ≤ 4

/-- Every check of `CONV` passes (44_convert.md R360) on an image of shape `sh`. -/
structure ConvReady (s : State) (sh : ImageShape) : Prop where
  closed : s.seq.state = .idle ∨ s.seq.state = .done
  header : s.cfg.valid.hdr = true
  srcInMem : s.arg0.toNat + s.arg1.toNat ≤ s.params.memSize
  dstInMem : s.arg2.toNat + s.arg3.toNat ≤ s.params.memSize
  shape : imageShape s.cfg = some sh
  enough : sh.height * bytesPerLine sh ≤ s.arg1.toNat
  palette : sh.mode = .palette → s.cfg.valid.plte = true
  room : sh.width * sh.height * 4 ≤ s.arg3.toNat

/-- The chunk at `IN_PTR` fits in the stream, and the stream in data memory (41_framer.md R234, R232). -/
structure ChunkFramed (s : State) (len : Nat) (tag : Word) : Prop where
  stream : s.inEnd.toNat ≤ s.params.memSize
  len_eq : len = (be32 s.mem s.inPtr.toNat).toNat
  tag_eq : tag = be32 s.mem (s.inPtr.toNat + 4)
  len_le : len ≤ 104857600
  fits : s.inPtr.toNat + 12 + len ≤ s.inEnd.toNat

/-- The chunk at `IN_PTR` is framed and its stored CRC is the one of its tag and payload (41_framer.md R234). -/
structure ChunkSound (s : State) (len : Nat) (tag : Word) : Prop extends ChunkFramed s len tag where
  crc : be32 s.mem (s.inPtr.toNat + 8 + len) = crc32 (memRead s.mem (s.inPtr.toNat + 4) (4 + len))

/-- The register writes of an accepted chunk whose loader left the state `u` (41_framer.md R234), written out, with the
success completion. -/
def chunkNext (s u : State) (len : Nat) (tag : Word) (cls : ChunkClass) (q : Seq) : State :=
  successNext { u with
    inPtr := s.inPtr + 12 + BitVec.ofNat 32 len
    chunkLen := BitVec.ofNat 32 len
    chunkTag := tag
    chunkCrc := be32 s.mem (s.inPtr.toNat + 8 + len)
    chunkCrcCalc := crc32 (memRead s.mem (s.inPtr.toNat + 4) (4 + len))
    chunkClass := cls
    chunkPayload := s.inPtr + 8
    seq := q }

end Sys2Proof.Machine
end

