-- ==== Sys2Proof/Certificates/Slice0/Obligations.lean ====
section
/-! DEFINITION. The statements for the provers. Each docstring names the rule of spec/ it formalises. `successNext`, `errorNext`, `failedNext` and `chunkNext` are the completions of 60_exceptions.md R410, R411 and 41_framer.md R239, R234 written out (Sys2Proof/Safety.lean), not the model's own operations. -/

open Sys2Proof Sys2Proof.Machine

/-! ### Encoding -/

/-- Words written out from the encodings of 30_encoding.md R140 and R144, and what they decode to. -/
def Obligations.DecodeOfWrittenWords : Prop :=
  decode 0x00000000 = .ok .nop ∧ decode 0x00006111 = .ok (.crcByte 0x61) ∧ decode 0x00000022 = .ok .frChunk ∧
  decode 0x00000031 = .ok .ldPlte ∧ decode 0x00000441 = .ok (.fltByte 4) ∧ decode 0x00000842 = .ok (.sample 8) ∧
  decode 0x00000050 = .ok .conv ∧ decode 0x00000342 = .error .sampleDepth

/-- 30_encoding.md R144: a word `w` is the command when `(w & mask) = match`, row by row, with the immediate the row
leaves free; `SAMPLE` also needs a legal depth (R145). -/
def Obligations.OpcodeMapMatchMask : Prop :=
  ∀ w : Word,
    (decode w = .ok .nop ↔ w &&& 0xFFFFFFFF = 0x00000000) ∧
    (decode w = .ok .sreset ↔ w &&& 0xFFFFFFFF = 0x00000001) ∧
    (decode w = .ok .crcInit ↔ w &&& 0xFFFFFFFF = 0x00000010) ∧
    (∀ b, decode w = .ok (.crcByte b) ↔ w &&& 0xFFFF00FF = 0x00000011 ∧ w.extractLsb' 8 8 = b) ∧
    (decode w = .ok .crcMem ↔ w &&& 0xFFFFFFFF = 0x00000012) ∧
    (decode w = .ok .crcFinal ↔ w &&& 0xFFFFFFFF = 0x00000013) ∧
    (decode w = .ok .frStart ↔ w &&& 0xFFFFFFFF = 0x00000020) ∧
    (decode w = .ok .frSig ↔ w &&& 0xFFFFFFFF = 0x00000021) ∧
    (decode w = .ok .frChunk ↔ w &&& 0xFFFFFFFF = 0x00000022) ∧
    (decode w = .ok .ldHdr ↔ w &&& 0xFFFFFFFF = 0x00000030) ∧
    (decode w = .ok .ldPlte ↔ w &&& 0xFFFFFFFF = 0x00000031) ∧
    (decode w = .ok .ldTrns ↔ w &&& 0xFFFFFFFF = 0x00000032) ∧
    (decode w = .ok .zbAppend ↔ w &&& 0xFFFFFFFF = 0x00000033) ∧
    (decode w = .ok .defilt ↔ w &&& 0xFFFFFFFF = 0x00000040) ∧
    (∀ t, decode w = .ok (.fltByte t) ↔ w &&& 0xFFFF00FF = 0x00000041 ∧ w.extractLsb' 8 8 = t) ∧
    (∀ d, decode w = .ok (.sample d) ↔
      w &&& 0xFFFF00FF = 0x00000042 ∧ w.extractLsb' 8 8 = d ∧ (d = 1 ∨ d = 2 ∨ d = 4 ∨ d = 8)) ∧
    (decode w = .ok .conv ↔ w &&& 0xFFFFFFFF = 0x00000050)

/-- Decode and encode agree, both ways (30_encoding.md R140 to R145): every well-formed command is what its word decodes
to, and a word that decodes is the word of its command, which is well formed. -/
def Obligations.DecodeEncodeRoundTrip : Prop :=
  (∀ i : Instr, i.wellFormed = true → decode (encode i) = .ok i) ∧
  (∀ (w : Word) (i : Instr), decode w = .ok i → i.wellFormed = true ∧ encode i = w)

/-- 30_encoding.md R145: the words that are no command, in the order of the checks, and the sub-cause each raises. Such a
word changes nothing but the error completion. An out-of-range `FLT.BYTE` type is no decoding error (R323). The engine
moves at its turn of the schedule, which leaves `ts`, or with nothing scheduled: that it moves when the schedule is empty
is the model's choice (assumption log 4, DESIGN CHOICE). -/
def Obligations.IllegalWordsRaiseBadCommand : Prop :=
  ∀ (s : State) (w : Word) (ts : List Turn), s.turns = [] ∧ ts = [] ∨ s.turns = .engine :: ts → s.latch = some w →
    let after := fun (code : Byte) (info : Word) => step s = .next (errorNext { s with turns := ts } code info)
    let rsv := w.extractLsb' 16 16
    let op := w.extractLsb' 0 8
    let imm := w.extractLsb' 8 8
    let assigned : List (BitVec 8) :=
      [0x00, 0x01, 0x10, 0x11, 0x12, 0x13, 0x20, 0x21, 0x22, 0x30, 0x31, 0x32, 0x33, 0x40, 0x41, 0x42, 0x50]
    (rsv ≠ 0 → after 12 1) ∧
    (rsv = 0 → op ∉ assigned → after 12 2) ∧
    (rsv = 0 → op ∈ assigned → op ≠ 0x11 → op ≠ 0x41 → op ≠ 0x42 → imm ≠ 0 → after 12 3) ∧
    (rsv = 0 → op = 0x42 → imm ≠ 1 → imm ≠ 2 → imm ≠ 4 → imm ≠ 8 → after 12 3) ∧
    (rsv = 0 → op = 0x41 → 4 < imm.toNat → after 9 0)

/-- A step runs the latched command (10_state.md R64, 70_reset_and_hazards.md R460): when the latch holds a word that
decodes to `i`, the engine's step is `exec i`, with the engine's turn taken off the schedule. With an empty latch the
engine holds its state (60_exceptions.md R422). A step adds nothing else around `exec`. That the engine moves when the
schedule is empty is the model's choice (assumption log 4, DESIGN CHOICE). -/
def Obligations.StepRunsTheLatchedCommand : Prop :=
  (∀ (s : State) (w : Word) (i : Instr), s.latch = some w → decode w = .ok i →
    (s.turns = [] → step s = exec i s) ∧
    (∀ ts, s.turns = .engine :: ts → step s = exec i { s with turns := ts })) ∧
  (∀ s : State, s.latch = none →
    (s.turns = [] → step s = .next s) ∧
    (∀ ts, s.turns = .engine :: ts → step s = .next { s with turns := ts }))

/-! ### Control and reset -/

/-- 49_control.md R390 with 60_exceptions.md R411: `NOP` completes and changes nothing else. -/
def Obligations.NopCompletes : Prop :=
  decode 0x00000000 = .ok .nop ∧
  ∀ s : State, exec .nop s =
    .next { s with status := ⟨false, true, false, s.status.overrun, 0⟩, latch := none }

/-- 49_control.md R391: what every register reads as after `SRESET`. That the arguments, `ERR_INFO` and `RESULT` are among
those it resets is the model's reading (assumption log 17, DEDUCED: R391's words, against the general words of 10_state.md
R37, R38 and R39). -/
def Obligations.SresetResult : Prop :=
  decode 0x00000001 = .ok .sreset ∧
  ∀ s : State, ∃ t, exec .sreset s = .next t ∧
    (∀ r : Reg, readReg t r =
      match r with
      | .id => 0x504E4701
      | .ctrl => readReg s .ctrl
      | .status => 0x00000002
      | .cmd => 0x00000001
      | .crcState => 0xFFFFFFFF
      | _ => 0) ∧
    t.mem = s.mem ∧ t.latch = none ∧ t.params = s.params ∧ t.turns = s.turns ∧ t.readData = s.readData

/-- 70_reset_and_hazards.md R440, R441 with the values of 10_state.md R65: a hardware reset at any time, busy or not, and
power-on, where every byte of data memory is drawn freely (20_memory.md R102). That a reset while busy falls where the
schedule puts it is the model's choice (assumption log 11). -/
def Obligations.HardwareResetResult : Prop :=
  let resetValues := fun t : State =>
    (∀ r : Reg, readReg t r =
      match r with
      | .id => 0x504E4701
      | .crcState => 0xFFFFFFFF
      | _ => 0) ∧
    t.irq = false ∧ t.latch = none
  (∀ (s : State) (ts : List Turn), s.turns = .host .hardwareReset :: ts → ∃ t, step s = .next t ∧ resetValues t ∧
    t.mem = s.mem ∧ t.params = s.params ∧ t.turns = ts ∧ t.readData = s.readData) ∧
  (∀ (p : Config.Params) (drawn : Nat → Byte), resetValues (State.powerOn p drawn) ∧
    (State.powerOn p drawn).params = p ∧
    ∀ a < p.memSize, memByte (State.powerOn p drawn).mem a = drawn a)

/-! ### CRC unit -/

/-- 40_crc.md R200, R201, R202: the table, the update, the fold, and the values the rules print. -/
def Obligations.CrcTableUpdateAndFold : Prop :=
  (∀ n : Byte, crcTable n =
    (fun c : Word => if c.getLsbD 0 then 0xEDB88320#32 ^^^ (c >>> 1) else c >>> 1)^[8] (n.zeroExtend 32)) ∧
  crcTable 0 = 0x00000000 ∧ crcTable 1 = 0x77073096 ∧ crcTable 128 = 0xEDB88320 ∧ crcTable 255 = 0x2D02EF8D ∧
  (∀ (c : Word) (b : Byte),
    crcUpdate c b = crcTable (((c ^^^ b.zeroExtend 32) &&& 0xFF).truncate 8) ^^^ (c >>> 8)) ∧
  (∀ bs : List Byte, crc32 bs = bs.foldl crcUpdate 0xFFFFFFFF ^^^ 0xFFFFFFFF) ∧
  crc32 [] = 0x00000000 ∧ crc32 [0x31, 0x32, 0x33, 0x34, 0x35, 0x36, 0x37, 0x38, 0x39] = 0xCBF43926

/-- 40_crc.md R203, R204, R206: the three commands of the CRC unit that take no memory operand. -/
def Obligations.CrcInitByteFinalResult : Prop :=
  decode 0x00000010 = .ok .crcInit ∧ (∀ b : Byte, decode (0x00000011 ||| (b.zeroExtend 32 <<< 8)) = .ok (.crcByte b)) ∧
  decode 0x00000013 = .ok .crcFinal ∧
  ∀ s : State,
    exec .crcInit s = .next (successNext { s with crcState := 0xFFFFFFFF }) ∧
    (∀ b, exec (.crcByte b) s = .next (successNext { s with crcState := crcUpdate s.crcState b })) ∧
    exec .crcFinal s = .next (successNext { s with crcOut := s.crcState ^^^ 0xFFFFFFFF })

/-- 40_crc.md R205: `CRC.MEM` folds the range, raises `BadAddress(1)` when it leaves data memory, and a range split in
two gives the same register as the whole. -/
def Obligations.CrcMemResult : Prop :=
  decode 0x00000012 = .ok .crcMem ∧
  (∀ s : State, s.arg0.toNat + s.arg1.toNat ≤ s.params.memSize →
    exec .crcMem s = .next (successNext
      { s with crcState := (memRead s.mem s.arg0.toNat s.arg1.toNat).foldl crcUpdate s.crcState })) ∧
  (∀ s : State, s.params.memSize < s.arg0.toNat + s.arg1.toNat → exec .crcMem s = .next (errorNext s 13 1)) ∧
  (∀ (s : State) (a n k : Nat), a + (n + k) ≤ s.params.memSize → ∃ t1 t2 t,
    exec .crcMem { s with arg0 := BitVec.ofNat 32 a, arg1 := BitVec.ofNat 32 n } = .next t1 ∧
    exec .crcMem { t1 with arg0 := BitVec.ofNat 32 (a + n), arg1 := BitVec.ofNat 32 k } = .next t2 ∧
    exec .crcMem { s with arg0 := BitVec.ofNat 32 a, arg1 := BitVec.ofNat 32 (n + k) } = .next t ∧
    t2.crcState = t.crcState)

/-- 40_crc.md R207: every change of one bit changes the CRC-32. -/
def Obligations.CrcDetectsEverySingleBitChange : Prop :=
  ∀ (before after : List Byte) (b : Byte) (k : Fin 8),
    crc32 (before ++ flipBit b k :: after) ≠ crc32 (before ++ b :: after)

/-! ### Framer -/

/-- 41_framer.md R232 with 42_loaders.md R273: `FR.START` opens a stream and clears the configuration, or raises
`BadAddress(1)` and leaves `SEQ` alone. -/
def Obligations.FrStartResult : Prop :=
  decode 0x00000020 = .ok .frStart ∧
  ∀ s : State,
    (s.arg0.toNat + s.arg1.toNat ≤ s.params.memSize → ∃ t, exec .frStart s = .next t ∧
      t = successNext { s with
        inPtr := s.arg0, inEnd := s.arg0 + s.arg1, seq := ⟨.expectSig, false, false, false⟩
        chunkLen := 0, chunkTag := 0, chunkCrc := 0, chunkCrcCalc := 0, chunkClass := .noneYet, chunkPayload := 0
        zbLen := 0, cfg := t.cfg } ∧
      (s.arg0 + s.arg1).toNat = s.arg0.toNat + s.arg1.toNat ∧
      readReg t .seq = 1 ∧ readReg t .chunkClass = 0 ∧
      readReg t .cfgValid = 0 ∧ readReg t .hdrWidth = 0 ∧ readReg t .hdrHeight = 0 ∧ readReg t .hdrFmt = 0 ∧
      readReg t .hdrIl = 0 ∧ readReg t .plteCount = 0 ∧ readReg t .trnsCount = 0 ∧ readReg t .trnsKey0 = 0 ∧
      readReg t .trnsKey1 = 0 ∧ readReg t .trnsKey2 = 0 ∧
      (∀ i, readReg t (.palette i) = 0) ∧ (∀ i, readReg t (.alpha i) = 0)) ∧
    (s.params.memSize < s.arg0.toNat + s.arg1.toNat → exec .frStart s = .next (errorNext s 13 1))

/-- 41_framer.md R233: every outcome of `FR.SIG`, on a stream inside data memory. -/
def Obligations.FrSigResult : Prop :=
  decode 0x00000021 = .ok .frSig ∧
  ∀ s : State,
    (s.seq.state ≠ .expectSig → exec .frSig s = .next (errorNext s 12 4)) ∧
    (s.seq.state = .expectSig → s.inEnd.toNat ≤ s.params.memSize →
      (s.inEnd.toNat < s.inPtr.toNat + 8 → exec .frSig s = .next (failedNext s 1 1)) ∧
      (s.inPtr.toNat + 8 ≤ s.inEnd.toNat →
        (memRead s.mem s.inPtr.toNat 8 ≠ [0x89, 0x50, 0x4E, 0x47, 0x0D, 0x0A, 0x1A, 0x0A] →
          exec .frSig s = .next (failedNext s 1 2)) ∧
        (memRead s.mem s.inPtr.toNat 8 = [0x89, 0x50, 0x4E, 0x47, 0x0D, 0x0A, 0x1A, 0x0A] →
          exec .frSig s = .next (successNext
            { s with inPtr := s.inPtr + 8, seq := { s.seq with state := .expectIhdr } }))))

/-- 41_framer.md R234, R240: the errors of `FR.CHUNK` up to the CRC comparison, in the order checked. A chunk cut short
anywhere, its last byte included, is a short read. -/
def Obligations.FrChunkFramingErrors : Prop :=
  ∀ s : State,
    (s.seq.state = .idle ∨ s.seq.state = .expectSig ∨ s.seq.state = .failed →
      exec .frChunk s = .next (errorNext s 12 4)) ∧
    (s.seq.state = .done → exec .frChunk s = .next (failedNext s 6 6)) ∧
    (s.seq.state = .expectIhdr ∨ s.seq.state = .body → s.inEnd.toNat ≤ s.params.memSize →
      let p := s.inPtr.toNat
      let len := (be32 s.mem p).toNat
      (s.inEnd.toNat < p + 8 → exec .frChunk s = .next (failedNext s 2 1)) ∧
      (p + 8 ≤ s.inEnd.toNat → 104857600 < len → exec .frChunk s = .next (failedNext s 2 2)) ∧
      (p + 8 ≤ s.inEnd.toNat → len ≤ 104857600 → s.inEnd.toNat < p + 12 + len →
        exec .frChunk s = .next (failedNext s 2 1)) ∧
      (len ≤ 104857600 → p + 12 + len ≤ s.inEnd.toNat →
        crc32 (memRead s.mem (p + 4) (4 + len)) ≠ be32 s.mem (p + 8 + len) →
        exec .frChunk s =
          .next (failedNext { s with chunkCrcCalc := crc32 (memRead s.mem (p + 4) (4 + len)) } 2 3)))

/-- 41_framer.md R236: the order checks on a chunk that passed framing and its CRC check. -/
def Obligations.FrChunkOrderErrors : Prop :=
  ∀ (s : State) (len : Nat) (tag : Word), ChunkSound s len tag →
    let s1 := { s with chunkCrcCalc := crc32 (memRead s.mem (s.inPtr.toNat + 4) (4 + len)) }
    (s.seq.state = .expectIhdr → tag ≠ 0x49484452 → exec .frChunk s = .next (failedNext s1 6 1)) ∧
    (s.seq.state = .body → tag = 0x49484452 → exec .frChunk s = .next (failedNext s1 6 2)) ∧
    (s.seq.state = .body → tag = 0x504C5445 → s.seq.seenPlte = true → exec .frChunk s = .next (failedNext s1 6 3)) ∧
    (s.seq.state = .body → tag = 0x74524E53 → s.seq.seenTrns = true → exec .frChunk s = .next (failedNext s1 6 3)) ∧
    (s.seq.state = .body → tag = 0x49454E44 → s.seq.seenIdat = false → exec .frChunk s = .next (failedNext s1 6 5))

/-- 41_framer.md R237, R234: a chunk with another tag, and the end marker with any payload, are framed, checked and
otherwise ignored. -/
def Obligations.FrChunkSkipsOtherAndEndChunks : Prop :=
  ∀ (s : State) (len : Nat) (tag : Word), s.seq.state = .body → ChunkSound s len tag →
    (tag ≠ 0x49484452 → tag ≠ 0x504C5445 → tag ≠ 0x74524E53 → tag ≠ 0x49444154 → tag ≠ 0x49454E44 →
      exec .frChunk s = .next (chunkNext s s len tag .other s.seq)) ∧
    (tag = 0x49454E44 → s.seq.seenIdat = true →
      exec .frChunk s = .next (chunkNext s s len tag .endMarker { s.seq with state := .done }))

/-- 41_framer.md R237 with 42_loaders.md R279: an image-data chunk's payload goes to the end of the compressed stream,
byte by byte, and no other byte of memory changes. A full buffer, or one outside memory, fails the stream. -/
def Obligations.FrChunkAppendsImageData : Prop :=
  ∀ (s : State) (len : Nat), Memory.wf s.mem → s.seq.state = .body → ChunkSound s len 0x49444154 →
    let s1 := { s with chunkCrcCalc := crc32 (memRead s.mem (s.inPtr.toNat + 4) (4 + len)) }
    let dst := s.zbBase.toNat + s.zbLen.toNat
    (s.zbBase.toNat + s.zbCap.toNat ≤ s.params.memSize → s.zbLen.toNat + len ≤ s.zbCap.toNat →
      ∃ t, exec .frChunk s = .next t ∧
        t = chunkNext s { s with mem := t.mem, zbLen := s.zbLen + BitVec.ofNat 32 len } len 0x49444154 .imageData
          { s.seq with seenIdat := true } ∧
        (∀ k < len, memByte t.mem (dst + k) = memByte s.mem (s.inPtr.toNat + 8 + k)) ∧
        (∀ a, ¬(dst ≤ a ∧ a < dst + len) → memByte t.mem a = memByte s.mem a)) ∧
    (s.params.memSize < s.zbBase.toNat + s.zbCap.toNat → exec .frChunk s = .next (failedNext s1 13 2)) ∧
    (s.zbBase.toNat + s.zbCap.toNat ≤ s.params.memSize → s.zbCap.toNat < s.zbLen.toNat + len →
      exec .frChunk s = .next (failedNext s1 11 1))

/-- 41_framer.md R237: on a header, palette or transparency chunk in its place `FR.CHUNK` does to the configuration what
the loader command does on the same payload, and raises its errors through the framer's failure. -/
def Obligations.FrChunkAgreesWithLoaders : Prop :=
  ∀ (s u : State) (len : Nat) (tag : Word), ChunkSound s len tag →
    let calc32 := crc32 (memRead s.mem (s.inPtr.toNat + 4) (4 + len))
    let onPayload := { s with arg0 := s.inPtr + 8, arg1 := BitVec.ofNat 32 len }
    let agrees := fun (cls : ChunkClass) (q : Seq) =>
      (u.status.err = false → exec .frChunk s = .next (chunkNext s { s with cfg := u.cfg } len tag cls q)) ∧
      (u.status.err = true →
        exec .frChunk s = .next (failedNext { s with chunkCrcCalc := calc32 } u.status.errCode u.errInfo))
    (s.seq.state = .expectIhdr → tag = 0x49484452 → exec .ldHdr onPayload = .next u →
      agrees .header { s.seq with state := .body }) ∧
    (s.seq.state = .body → tag = 0x504C5445 → s.seq.seenPlte = false → exec .ldPlte onPayload = .next u →
      agrees .palette { s.seq with seenPlte := true }) ∧
    (s.seq.state = .body → tag = 0x74524E53 → s.seq.seenTrns = false → exec .ldTrns onPayload = .next u →
      agrees .transparency { s.seq with seenTrns := true })

/-- The memory frame of `FR.CHUNK` (41_framer.md R234, 60_exceptions.md R410): the only bytes it can change are those an
accepted image-data chunk appends. -/
def Obligations.FrChunkMemoryFrame : Prop :=
  ∀ s t : State, exec .frChunk s = .next t →
    (t.status.err = true ∨ t.chunkClass ≠ .imageData → t.mem = s.mem) ∧
    (∀ a, ¬(s.zbBase.toNat + s.zbLen.toNat ≤ a ∧
        a < s.zbBase.toNat + s.zbLen.toNat + (be32 s.mem s.inPtr.toNat).toNat) →
      memByte t.mem a = memByte s.mem a)

/-- 41_framer.md R239: what a failure inside `FR.SIG` or `FR.CHUNK` changes, and that `BadCommand(4)` is no failure of the
parse. -/
def Obligations.FramerFailureKeepsRegisters : Prop :=
  ∀ (i : Instr) (s t : State), i = .frSig ∨ i = .frChunk → exec i s = .next t → t.status.err = true →
    t = { s with
      status := t.status, errInfo := t.errInfo, latch := none
      seq := { s.seq with state := t.seq.state }, chunkCrcCalc := t.chunkCrcCalc } ∧
    (t.status.errCode = 12 → t.errInfo = 4 ∧ t.seq = s.seq ∧ t.chunkCrcCalc = s.chunkCrcCalc) ∧
    (t.status.errCode ≠ 12 → t.seq.state = .failed) ∧
    (i = .frSig → t.chunkCrcCalc = s.chunkCrcCalc)

/-- 41_framer.md R240: a chunk that was sound fails with `TruncatedOrCorrupt(3)` once any one bit of its tag or payload is
changed, and nothing of it reaches the configuration or the compressed stream. -/
def Obligations.FlippedBitIsCorrupt : Prop :=
  ∀ (s : State) (len : Nat) (tag : Word) (a : Nat) (k : Fin 8), Memory.wf s.mem →
    s.seq.state = .expectIhdr ∨ s.seq.state = .body → ChunkSound s len tag →
    s.inPtr.toNat + 4 ≤ a → a < s.inPtr.toNat + 8 + len →
    ∃ t, exec .frChunk { s with mem := setByte s.mem a (flipBit (memByte s.mem a) k) } = .next t ∧
      t.status.err = true ∧ t.status.errCode = 2 ∧ t.errInfo = 3 ∧ t.seq.state = .failed ∧
      t.cfg = s.cfg ∧ t.zbLen = s.zbLen ∧ t.inPtr = s.inPtr ∧
      t.mem = setByte s.mem a (flipBit (memByte s.mem a) k)

/-- 41_framer.md R231, R238: the moves of the sequencer and of its flags, over every command. -/
def Obligations.SequencerMoves : Prop :=
  ∀ (i : Instr) (s t : State), exec i s = .next t →
    (i = .sreset → t.seq = ⟨.idle, false, false, false⟩) ∧
    (i = .frStart → t.status.err = false → t.seq = ⟨.expectSig, false, false, false⟩) ∧
    (i = .frStart → t.status.err = true → t.seq = s.seq) ∧
    (i ≠ .sreset → i ≠ .frStart → i ≠ .frSig → i ≠ .frChunk → t.seq = s.seq) ∧
    (i = .frSig → s.seq.state ≠ .expectSig → t.seq = s.seq) ∧
    (i = .frChunk → s.seq.state = .idle ∨ s.seq.state = .expectSig ∨ s.seq.state = .failed → t.seq = s.seq) ∧
    (i = .frSig → s.seq.state = .expectSig → t.status.err = false → t.seq = { s.seq with state := .expectIhdr }) ∧
    (i = .frSig → s.seq.state = .expectSig → t.status.err = true → t.seq = { s.seq with state := .failed }) ∧
    (i = .frChunk → s.seq.state = .expectIhdr → t.status.err = false →
      t.seq = { s.seq with state := .body } ∧ t.chunkClass = .header) ∧
    (i = .frChunk → s.seq.state = .body → t.status.err = false →
      (t.seq.state = .done ↔ t.chunkClass = .endMarker) ∧ (t.seq.state = .done ∨ t.seq.state = .body) ∧
      t.seq.seenPlte = (s.seq.seenPlte || decide (t.chunkClass = .palette)) ∧
      t.seq.seenTrns = (s.seq.seenTrns || decide (t.chunkClass = .transparency)) ∧
      t.seq.seenIdat = (s.seq.seenIdat || decide (t.chunkClass = .imageData))) ∧
    (i = .frChunk → s.seq.state = .expectIhdr ∨ s.seq.state = .body ∨ s.seq.state = .done → t.status.err = true →
      t.seq = { s.seq with state := .failed })

/-- 60_exceptions.md R415: in state FAILED the framer commands raise `BadCommand(4)`, `DEFILT` and `CONV` raise
`BadCommand(5)`, and only `FR.START` and `SRESET` leave the state. -/
def Obligations.FailedStreamIsLeftByFrStartOrSreset : Prop :=
  ∀ (i : Instr) (s t : State), s.seq.state = .failed → exec i s = .next t →
    (i = .frSig ∨ i = .frChunk → t = errorNext s 12 4) ∧
    (i = .defilt ∨ i = .conv → t = errorNext s 12 5) ∧
    (t.seq.state ≠ .failed → i = .frStart ∨ i = .sreset)

/-! ### Loaders -/

/-- 42_loaders.md R270 to R273: `LD.HDR`, every check in order with its sub-cause, the 15 legal pairs of colour mode and
depth, and the registers a legal header leaves. -/
def Obligations.LdHdrResult : Prop :=
  decode 0x00000030 = .ok .ldHdr ∧
  ∀ s : State,
    let a := s.arg0.toNat
    let n := s.arg1.toNat
    let w : Word := memByte s.mem a ++ memByte s.mem (a + 1) ++ memByte s.mem (a + 2) ++ memByte s.mem (a + 3)
    let h : Word := memByte s.mem (a + 4) ++ memByte s.mem (a + 5) ++ memByte s.mem (a + 6) ++ memByte s.mem (a + 7)
    let d := memByte s.mem (a + 8)
    let col := memByte s.mem (a + 9)
    let comp := memByte s.mem (a + 10)
    let filt := memByte s.mem (a + 11)
    let il := memByte s.mem (a + 12)
    let legal : List (Nat × Nat) :=
      [(0, 1), (0, 2), (0, 4), (0, 8), (0, 16), (2, 8), (2, 16), (3, 1), (3, 2), (3, 4), (3, 8),
        (4, 8), (4, 16), (6, 8), (6, 16)]
    exec .ldHdr s = .next (
      if s.params.memSize < a + n then errorNext s 13 1
      else if n ≠ 13 then errorNext s 3 1
      else if w = 0 ∨ h = 0 then errorNext s 3 2
      else if comp ≠ 0 then errorNext s 3 3
      else if filt ≠ 0 then errorNext s 3 4
      else if il ≠ 0 ∧ il ≠ 1 then errorNext s 3 5
      else if col ≠ 0 ∧ col ≠ 2 ∧ col ≠ 3 ∧ col ≠ 4 ∧ col ≠ 6 then errorNext s 3 6
      else if (col.toNat, d.toNat) ∉ legal then errorNext s 3 7
      else successNext { s with cfg :=
        { valid := ⟨true, false, false⟩, hdrWidth := w, hdrHeight := h, hdrFmt := ⟨d, col, comp, filt⟩, hdrIl := il
          plteCount := 0, palette := Vector.replicate 256 ⟨0, 0, 0⟩
          trnsCount := 0, trnsKey0 := 0, trnsKey1 := 0, trnsKey2 := 0, alpha := Vector.replicate 256 0 } })

/-- 42_loaders.md R274, R275: `LD.PLTE`, its errors in order, and the palette it leaves. -/
def Obligations.LdPlteResult : Prop :=
  decode 0x00000031 = .ok .ldPlte ∧
  ∀ s : State,
    let a := s.arg0.toNat
    let n := s.arg1.toNat
    (s.params.memSize < a + n → exec .ldPlte s = .next (errorNext s 13 1)) ∧
    (a + n ≤ s.params.memSize →
      (s.cfg.valid.hdr = false → exec .ldPlte s = .next (errorNext s 6 7)) ∧
      (s.cfg.valid.hdr = true → s.cfg.hdrFmt.color ≠ 3 → exec .ldPlte s = .next (errorNext s 6 4)) ∧
      (s.cfg.valid.hdr = true → s.cfg.hdrFmt.color = 3 → n % 3 ≠ 0 → exec .ldPlte s = .next (errorNext s 4 1)) ∧
      (s.cfg.valid.hdr = true → s.cfg.hdrFmt.color = 3 → n % 3 = 0 → 768 < n →
        exec .ldPlte s = .next (errorNext s 4 2)) ∧
      (s.cfg.valid.hdr = true → s.cfg.hdrFmt.color = 3 → n % 3 = 0 → n ≤ 768 → ∃ t, exec .ldPlte s = .next t ∧
        t = successNext { s with cfg :=
          { s.cfg with palette := t.cfg.palette, plteCount := t.cfg.plteCount, valid := { s.cfg.valid with plte := true } } } ∧
        t.cfg.plteCount.toNat = n / 3 ∧
        (∀ i : Byte, i.toNat < n / 3 → tableAt t.cfg.palette i =
          ⟨memByte s.mem (a + 3 * i.toNat), memByte s.mem (a + 3 * i.toNat + 1), memByte s.mem (a + 3 * i.toNat + 2)⟩) ∧
        (∀ i : Byte, n / 3 ≤ i.toNat → tableAt t.cfg.palette i = ⟨0, 0, 0⟩)))

/-- 42_loaders.md R276, R277: `LD.TRNS` by colour mode, its errors in order, and the keys and alpha table it leaves. -/
def Obligations.LdTrnsResult : Prop :=
  decode 0x00000032 = .ok .ldTrns ∧
  ∀ s : State,
    let a := s.arg0.toNat
    let n := s.arg1.toNat
    let col := s.cfg.hdrFmt.color
    let loads := fun (k0 k1 k2 : BitVec 16) (cnt : Nat) => ∃ t, exec .ldTrns s = .next t ∧
      t = successNext { s with cfg :=
        { s.cfg with
          trnsKey0 := k0, trnsKey1 := k1, trnsKey2 := k2, trnsCount := t.cfg.trnsCount, alpha := t.cfg.alpha
          valid := { s.cfg.valid with trns := true } } } ∧
      t.cfg.trnsCount.toNat = cnt ∧
      (∀ i : Byte, i.toNat < cnt → tableAt t.cfg.alpha i = memByte s.mem (a + i.toNat)) ∧
      (∀ i : Byte, cnt ≤ i.toNat → tableAt t.cfg.alpha i = 0)
    (s.params.memSize < a + n → exec .ldTrns s = .next (errorNext s 13 1)) ∧
    (a + n ≤ s.params.memSize →
      (s.cfg.valid.hdr = false → exec .ldTrns s = .next (errorNext s 6 7)) ∧
      (s.cfg.valid.hdr = true →
        (col = 4 ∨ col = 6 → exec .ldTrns s = .next (errorNext s 5 1)) ∧
        (col = 0 → n ≠ 2 → exec .ldTrns s = .next (errorNext s 5 2)) ∧
        (col = 0 → n = 2 → loads (be16 s.mem a) 0 0 0) ∧
        (col = 2 → n ≠ 6 → exec .ldTrns s = .next (errorNext s 5 2)) ∧
        (col = 2 → n = 6 → loads (be16 s.mem a) (be16 s.mem (a + 2)) (be16 s.mem (a + 4)) 0) ∧
        (col = 3 → n < 1 ∨ 256 < n → exec .ldTrns s = .next (errorNext s 5 2)) ∧
        (col = 3 → 1 ≤ n → n ≤ 256 → s.cfg.valid.plte = true → s.cfg.plteCount.toNat < n →
          exec .ldTrns s = .next (errorNext s 5 3)) ∧
        (col = 3 → 1 ≤ n → n ≤ 256 → s.cfg.valid.plte = false ∨ n ≤ s.cfg.plteCount.toNat → loads 0 0 0 n)))

/-- 42_loaders.md R278, R279: `ZB.APPEND`, its errors in order, the bytes it copies, and that no other byte changes. -/
def Obligations.ZbAppendResult : Prop :=
  decode 0x00000033 = .ok .zbAppend ∧
  ∀ s : State,
    let a := s.arg0.toNat
    let n := s.arg1.toNat
    let dst := s.zbBase.toNat + s.zbLen.toNat
    (s.params.memSize < a + n → exec .zbAppend s = .next (errorNext s 13 1)) ∧
    (a + n ≤ s.params.memSize → s.params.memSize < s.zbBase.toNat + s.zbCap.toNat →
      exec .zbAppend s = .next (errorNext s 13 2)) ∧
    (a + n ≤ s.params.memSize → s.zbBase.toNat + s.zbCap.toNat ≤ s.params.memSize → s.zbCap.toNat < s.zbLen.toNat + n →
      exec .zbAppend s = .next (errorNext s 11 1)) ∧
    (a + n ≤ s.params.memSize → s.zbBase.toNat + s.zbCap.toNat ≤ s.params.memSize → s.zbLen.toNat + n ≤ s.zbCap.toNat →
      Memory.wf s.mem → ∃ t, exec .zbAppend s = .next t ∧
        t = successNext { s with mem := t.mem, zbLen := t.zbLen } ∧ t.zbLen.toNat = s.zbLen.toNat + n ∧
        (∀ k < n, memByte t.mem (dst + k) = memByte s.mem (a + k)) ∧
        (∀ b, ¬(dst ≤ b ∧ b < dst + n) → memByte t.mem b = memByte s.mem b))

/-! ### Defilter engine and unpacker -/

/-- 43_defilter.md R320, R321: the errors of `DEFILT` in the order checked. -/
def Obligations.DefiltErrors : Prop :=
  ∀ s : State,
    let closed := s.seq.state = .idle ∨ s.seq.state = .done
    let srcOk := s.arg0.toNat + s.arg1.toNat ≤ s.params.memSize
    let dstOk := s.arg2.toNat + s.arg3.toNat ≤ s.params.memSize
    (¬closed → exec .defilt s = .next (errorNext s 12 5)) ∧
    (closed → s.cfg.valid.hdr = false → exec .defilt s = .next (errorNext s 3 8)) ∧
    (closed → s.cfg.valid.hdr = true → ¬srcOk → exec .defilt s = .next (errorNext s 13 1)) ∧
    (closed → s.cfg.valid.hdr = true → srcOk → ¬dstOk → exec .defilt s = .next (errorNext s 13 3)) ∧
    (closed → s.cfg.valid.hdr = true → srcOk → dstOk → ∀ sh, imageShape s.cfg = some sh →
      let bpl := bytesPerLine sh
      (s.arg1.toNat < sh.height * (bpl + 1) → exec .defilt s = .next (errorNext s 8 1)) ∧
      (sh.height * (bpl + 1) ≤ s.arg1.toNat → s.arg3.toNat < sh.height * bpl →
        exec .defilt s = .next (errorNext s 11 2)) ∧
      (sh.height * (bpl + 1) ≤ s.arg1.toNat → sh.height * bpl ≤ s.arg3.toNat →
        ∀ y < sh.height, 4 < (memByte s.mem (s.arg0.toNat + y * (bpl + 1))).toNat →
          (∀ z < y, (memByte s.mem (s.arg0.toNat + z * (bpl + 1))).toNat ≤ 4) →
          exec .defilt s = .next (errorNext s 9 (BitVec.ofNat 32 y))))

/-- 43_defilter.md R310, R313, R314, R322: when its checks pass, `DEFILT` completes, every output byte is the filtered
input byte plus the prediction from its reconstructed neighbours, modulo 256, and no other byte of memory and no other
register changes. The neighbours are read from the output, the filtered bytes from memory as it was. -/
def Obligations.DefiltReconstructs : Prop :=
  ∀ (s : State) (sh : ImageShape), Memory.wf s.mem → DefiltReady s sh →
    let bpl := bytesPerLine sh
    let src := s.arg0.toNat
    let dst := s.arg2.toNat
    ∃ t, exec .defilt s = .next t ∧ t = successNext { s with mem := t.mem } ∧
      (∀ y < sh.height, ∀ x < bpl, ∃ ft, filterTypeOf (memByte s.mem (src + y * (bpl + 1))) = some ft ∧
        memByte t.mem (dst + y * bpl + x) =
          memByte s.mem (src + y * (bpl + 1) + 1 + x) +
            predictedAt ft (bytesPerPixel sh) (fun v u => memByte t.mem (dst + v * bpl + u)) y x) ∧
      (∀ a, ¬(dst ≤ a ∧ a < dst + sh.height * bpl) → memByte t.mem a = memByte s.mem a)

/-- 43_defilter.md R325: an image filtered row by row with any filter types comes back exactly. `orig y x` is the
original byte, `tag y` the type of row `y`; the source holds the tags and the forward-filtered bytes. -/
def Obligations.FilterRoundTrip : Prop :=
  ∀ (s : State) (sh : ImageShape) (orig : Nat → Nat → Byte) (tag : Nat → FilterType),
    Memory.wf s.mem → DefiltReady s sh →
    (∀ y < sh.height,
      filterTypeOf (memByte s.mem (s.arg0.toNat + y * (bytesPerLine sh + 1))) = some (tag y) ∧
      ∀ x < bytesPerLine sh, memByte s.mem (s.arg0.toNat + y * (bytesPerLine sh + 1) + 1 + x) =
        orig y x - predictedAt (tag y) (bytesPerPixel sh) orig y x) →
    ∃ t, exec .defilt s = .next t ∧
      ∀ y < sh.height, ∀ x < bytesPerLine sh, memByte t.mem (s.arg2.toNat + y * bytesPerLine sh + x) = orig y x

/-- 43_defilter.md R311, R312, R313, R323: `FLT.BYTE`, type by type, with the distances of R312 as integers. -/
def Obligations.FltByteResult : Prop :=
  (∀ t : Byte, decode (0x00000041 ||| (t.zeroExtend 32 <<< 8)) = .ok (.fltByte t)) ∧
  ∀ s : State,
    let f := s.arg0.extractLsb' 0 8
    let a := s.arg1.extractLsb' 0 8
    let b := s.arg2.extractLsb' 0 8
    let c := s.arg3.extractLsb' 0 8
    let ia : Int := a.toNat
    let ib : Int := b.toNat
    let ic : Int := c.toNat
    let paethChoice : Byte :=
      if |ib - ic| ≤ |ia - ic| ∧ |ib - ic| ≤ |ia + ib - 2 * ic| then a
      else if |ia - ic| ≤ |ia + ib - 2 * ic| then b else c
    let result := fun r : Byte => Host.Outcome.next (successNext { s with result := r.zeroExtend 32 })
    exec (.fltByte 0) s = result f ∧
    exec (.fltByte 1) s = result (f + a) ∧
    exec (.fltByte 2) s = result (f + b) ∧
    exec (.fltByte 3) s = result (BitVec.ofNat 8 (f.toNat + (a.toNat + b.toNat) / 2)) ∧
    exec (.fltByte 4) s = result (f + paethChoice) ∧
    (∀ t : Byte, 4 < t.toNat → exec (.fltByte t) s = .next (errorNext s 9 0))

/-- 43_defilter.md R312, in the document's words: the Paeth predictor is a neighbour that minimises the distance to
`a + b - c`, ties broken in the order left, above, upper left. -/
def Obligations.PaethMinimisesInTieOrder : Prop :=
  ∀ a b c : Byte,
    let p : Int := (a.toNat : Int) + b.toNat - c.toNat
    let dist := fun v : Byte => |p - (v.toNat : Int)|
    (paeth a b c = a ∨ paeth a b c = b ∨ paeth a b c = c) ∧
    dist (paeth a b c) ≤ dist a ∧ dist (paeth a b c) ≤ dist b ∧ dist (paeth a b c) ≤ dist c ∧
    (dist a ≤ dist b → dist a ≤ dist c → paeth a b c = a) ∧
    (dist b < dist a → dist b ≤ dist c → paeth a b c = b) ∧
    (dist c < dist a → dist c < dist b → paeth a b c = c) ∧
    (dist a = dist b → a ≠ b → dist c = 0)

/-- 43_defilter.md R324, R315: `SAMPLE` at every legal depth: the sample's value, its bound, and `BadAddress(1)` when the
byte that holds it is outside data memory. -/
def Obligations.SampleResult : Prop :=
  (∀ d : Byte, d = 1 ∨ d = 2 ∨ d = 4 ∨ d = 8 → decode (0x00000042 ||| (d.zeroExtend 32 <<< 8)) = .ok (.sample d)) ∧
  ∀ (s : State) (d : Byte), d = 1 ∨ d = 2 ∨ d = 4 ∨ d = 8 →
    let bitpos := s.arg1.toNat * d.toNat
    let byteAt := s.arg0.toNat + bitpos / 8
    let v := (memByte s.mem byteAt).toNat / 2 ^ (8 - d.toNat - bitpos % 8) % 2 ^ d.toNat
    (byteAt + 1 ≤ s.params.memSize → ∃ t, exec (.sample d) s = .next t ∧
      t = successNext { s with result := t.result } ∧ t.result.toNat = v ∧ t.result.toNat < 2 ^ d.toNat) ∧
    (s.params.memSize < byteAt + 1 → exec (.sample d) s = .next (errorNext s 13 1))

/-! ### Converter -/

/-- 44_convert.md R360: the errors of `CONV` in the order checked. -/
def Obligations.ConvErrors : Prop :=
  ∀ s : State,
    let closed := s.seq.state = .idle ∨ s.seq.state = .done
    let srcOk := s.arg0.toNat + s.arg1.toNat ≤ s.params.memSize
    let dstOk := s.arg2.toNat + s.arg3.toNat ≤ s.params.memSize
    (¬closed → exec .conv s = .next (errorNext s 12 5)) ∧
    (closed → s.cfg.valid.hdr = false → exec .conv s = .next (errorNext s 10 3)) ∧
    (closed → s.cfg.valid.hdr = true → ¬srcOk → exec .conv s = .next (errorNext s 13 1)) ∧
    (closed → s.cfg.valid.hdr = true → srcOk → ¬dstOk → exec .conv s = .next (errorNext s 13 3)) ∧
    (closed → s.cfg.valid.hdr = true → srcOk → dstOk → ∀ sh, imageShape s.cfg = some sh →
      let bpl := bytesPerLine sh
      let noPalette := sh.mode = .palette ∧ s.cfg.valid.plte = false
      (s.arg1.toNat < sh.height * bpl → exec .conv s = .next (errorNext s 10 1)) ∧
      (sh.height * bpl ≤ s.arg1.toNat → noPalette → exec .conv s = .next (errorNext s 10 2)) ∧
      (sh.height * bpl ≤ s.arg1.toNat → ¬noPalette → s.arg3.toNat < sh.width * sh.height * 4 →
        exec .conv s = .next (errorNext s 11 3)))

/-- 44_convert.md R352, R353, R354, R359: `CONV` of a Gray image at every depth, with the key compared with the raw
sample. -/
def Obligations.ConvGrayPixels : Prop :=
  ∀ (s : State) (sh : ImageShape), Memory.wf s.mem → ConvReady s sh → sh.mode = .gray →
    ∃ t, exec .conv s = .next t ∧ t = successNext { s with mem := t.mem } ∧
      ∀ y < sh.height, ∀ x < sh.width,
        let row := s.arg0.toNat + y * bytesPerLine sh
        let out := s.arg2.toNat + 4 * (y * sh.width + x)
        let d := sh.depth
        let raw : Nat :=
          if d = 16 then 256 * (memByte s.mem (row + 2 * x)).toNat + (memByte s.mem (row + 2 * x + 1)).toNat
          else (memByte s.mem (row + x * d / 8)).toNat / 2 ^ (8 - d - x * d % 8) % 2 ^ d
        let g : Nat := if d = 1 then 255 * raw else if d = 2 then 85 * raw else if d = 4 then 17 * raw
          else if d = 8 then raw else raw / 256
        (memByte t.mem out).toNat = g ∧ (memByte t.mem (out + 1)).toNat = g ∧ (memByte t.mem (out + 2)).toNat = g ∧
        (memByte t.mem (out + 3)).toNat = if s.cfg.valid.trns = true ∧ raw = s.cfg.trnsKey0.toNat then 0 else 255

/-- 44_convert.md R352, R355, R359: `CONV` of an RGB image at both depths. -/
def Obligations.ConvRgbPixels : Prop :=
  ∀ (s : State) (sh : ImageShape), Memory.wf s.mem → ConvReady s sh → sh.mode = .rgb →
    ∃ t, exec .conv s = .next t ∧ t = successNext { s with mem := t.mem } ∧
      ∀ y < sh.height, ∀ x < sh.width,
        let row := s.arg0.toNat + y * bytesPerLine sh
        let out := s.arg2.toNat + 4 * (y * sh.width + x)
        let raw := fun k : Nat =>
          if sh.depth = 8 then (memByte s.mem (row + 3 * x + k)).toNat
          else 256 * (memByte s.mem (row + 6 * x + 2 * k)).toNat + (memByte s.mem (row + 6 * x + 2 * k + 1)).toNat
        (∀ k < 3, (memByte t.mem (out + k)).toNat = if sh.depth = 8 then raw k else raw k / 256) ∧
        (memByte t.mem (out + 3)).toNat =
          if s.cfg.valid.trns = true ∧ raw 0 = s.cfg.trnsKey0.toNat ∧ raw 1 = s.cfg.trnsKey1.toNat ∧
            raw 2 = s.cfg.trnsKey2.toNat then 0 else 255

/-- 44_convert.md R352, R356: `CONV` of a Palette image: black outside the palette, opaque outside the alpha table, each
decided on its own. -/
def Obligations.ConvPalettePixels : Prop :=
  ∀ (s : State) (sh : ImageShape), Memory.wf s.mem → ConvReady s sh → sh.mode = .palette →
    ∃ t, exec .conv s = .next t ∧ t = successNext { s with mem := t.mem } ∧
      ∀ y < sh.height, ∀ x < sh.width,
        let row := s.arg0.toNat + y * bytesPerLine sh
        let out := s.arg2.toNat + 4 * (y * sh.width + x)
        let d := sh.depth
        ∃ idx : Byte,
          idx.toNat = (memByte s.mem (row + x * d / 8)).toNat / 2 ^ (8 - d - x * d % 8) % 2 ^ d ∧
          (idx.toNat < s.cfg.plteCount.toNat →
            memByte t.mem out = (tableAt s.cfg.palette idx).red ∧
            memByte t.mem (out + 1) = (tableAt s.cfg.palette idx).green ∧
            memByte t.mem (out + 2) = (tableAt s.cfg.palette idx).blue) ∧
          (s.cfg.plteCount.toNat ≤ idx.toNat →
            memByte t.mem out = 0 ∧ memByte t.mem (out + 1) = 0 ∧ memByte t.mem (out + 2) = 0) ∧
          memByte t.mem (out + 3) =
            if s.cfg.valid.trns = true ∧ idx.toNat < s.cfg.trnsCount.toNat then tableAt s.cfg.alpha idx else 255

/-- 44_convert.md R352, R357, R358: `CONV` of GrayAlpha and RGBA images at both depths: the bytes themselves, or the high
byte of each 16-bit sample, and no key check. -/
def Obligations.ConvAlphaModePixels : Prop :=
  ∀ (s : State) (sh : ImageShape), Memory.wf s.mem → ConvReady s sh → sh.mode = .grayAlpha ∨ sh.mode = .rgba →
    ∃ t, exec .conv s = .next t ∧ t = successNext { s with mem := t.mem } ∧
      ∀ y < sh.height, ∀ x < sh.width,
        let row := s.arg0.toNat + y * bytesPerLine sh
        let out := s.arg2.toNat + 4 * (y * sh.width + x)
        let step := sh.depth / 8
        (sh.mode = .grayAlpha → (∀ k < 3, memByte t.mem (out + k) = memByte s.mem (row + 2 * step * x)) ∧
          memByte t.mem (out + 3) = memByte s.mem (row + 2 * step * x + step)) ∧
        (sh.mode = .rgba → ∀ k < 4, memByte t.mem (out + k) = memByte s.mem (row + 4 * step * x + step * k))

/-- The memory frame of `DEFILT` and `CONV` in every outcome (43_defilter.md R320, R322, 44_convert.md R352, R360): only
the `H * bpl` or `W * H * 4` bytes at the destination change, however large the capacity. -/
def Obligations.DestinationOnlyIsWritten : Prop :=
  ∀ s t : State,
    (exec .defilt s = .next t → ∀ sh, imageShape s.cfg = some sh →
      ∀ a, ¬(s.arg2.toNat ≤ a ∧ a < s.arg2.toNat + sh.height * bytesPerLine sh) →
        memByte t.mem a = memByte s.mem a) ∧
    (exec .conv s = .next t → ∀ sh, imageShape s.cfg = some sh →
      ∀ a, ¬(s.arg2.toNat ≤ a ∧ a < s.arg2.toNat + sh.width * sh.height * 4) → memByte t.mem a = memByte s.mem a)

/-- 00_scope.md R15: the output of `DEFILT`, `CONV` and `ZB.APPEND` is the same wherever it goes, over its own input or
not. -/
def Obligations.OutputDoesNotDependOnOverlap : Prop :=
  (∀ (s : State) (sh : ImageShape) (dst : Word), Memory.wf s.mem → DefiltReady s sh →
    DefiltReady { s with arg2 := dst } sh → ∃ t u,
      exec .defilt s = .next t ∧ exec .defilt { s with arg2 := dst } = .next u ∧
      ∀ k < sh.height * bytesPerLine sh, memByte t.mem (s.arg2.toNat + k) = memByte u.mem (dst.toNat + k)) ∧
  (∀ (s : State) (sh : ImageShape) (dst : Word), Memory.wf s.mem → ConvReady s sh →
    ConvReady { s with arg2 := dst } sh → ∃ t u,
      exec .conv s = .next t ∧ exec .conv { s with arg2 := dst } = .next u ∧
      ∀ k < sh.width * sh.height * 4, memByte t.mem (s.arg2.toNat + k) = memByte u.mem (dst.toNat + k)) ∧
  (∀ (s : State) (dst : Word), Memory.wf s.mem → s.arg0.toNat + s.arg1.toNat ≤ s.params.memSize →
    s.zbBase.toNat + s.zbCap.toNat ≤ s.params.memSize → dst.toNat + s.zbCap.toNat ≤ s.params.memSize →
    s.zbLen.toNat + s.arg1.toNat ≤ s.zbCap.toNat → ∃ t u,
      exec .zbAppend s = .next t ∧ exec .zbAppend { s with zbBase := dst } = .next u ∧
      ∀ k < s.arg1.toNat, memByte t.mem (s.zbBase.toNat + s.zbLen.toNat + k) =
        memByte u.mem (dst.toNat + s.zbLen.toNat + k))

/-- 43_defilter.md R310, 44_convert.md R360: the outputs of `DEFILT` and `CONV` do not depend on any byte of memory beyond
the source bytes they need: two runs whose memories agree there agree on the output. -/
def Obligations.UnreadBytesDoNotMatter : Prop :=
  (∀ (s : State) (sh : ImageShape) (m : Memory), Memory.wf s.mem → Memory.wf m → DefiltReady s sh →
    (∀ k < sh.height * (bytesPerLine sh + 1), memByte m (s.arg0.toNat + k) = memByte s.mem (s.arg0.toNat + k)) →
    ∃ t u, exec .defilt s = .next t ∧ exec .defilt { s with mem := m } = .next u ∧
      ∀ k < sh.height * bytesPerLine sh, memByte u.mem (s.arg2.toNat + k) = memByte t.mem (s.arg2.toNat + k)) ∧
  (∀ (s : State) (sh : ImageShape) (m : Memory), Memory.wf s.mem → Memory.wf m → ConvReady s sh →
    (∀ k < sh.height * bytesPerLine sh, memByte m (s.arg0.toNat + k) = memByte s.mem (s.arg0.toNat + k)) →
    ∃ t u, exec .conv s = .next t ∧ exec .conv { s with mem := m } = .next u ∧
      ∀ k < sh.width * sh.height * 4, memByte u.mem (s.arg2.toNat + k) = memByte t.mem (s.arg2.toNat + k))

/-- The document's first property (95_test_vectors.md L1-1, 44_convert.md R360): `CONV` run again on the same operands
leaves the same state, when its output does not cover its source. -/
def Obligations.ConvIsIdempotent : Prop :=
  ∀ (s : State) (sh : ImageShape), Memory.wf s.mem → ConvReady s sh →
    s.arg2.toNat + sh.width * sh.height * 4 ≤ s.arg0.toNat ∨
      s.arg0.toNat + sh.height * bytesPerLine sh ≤ s.arg2.toNat →
    ∃ t, exec .conv s = .next t ∧ exec .conv t = .next t

/-! ### Whole-machine rules of commands -/

/-- 30_encoding.md R143, the last column, with R410 and R411: in every outcome a command changes at most the registers of
its row, `STATUS`, `ERR_INFO` and the latch; `ARG0..3` are written by no command but `SRESET` (10_state.md R37), and the
framer and the loaders touch neither `CRC_STATE` nor `CRC_OUT` (40_crc.md R208). -/
def Obligations.RegistersEachCommandWrites : Prop :=
  ∀ s t : State,
    let base := { s with status := t.status, errInfo := t.errInfo, latch := none }
    (exec .nop s = .next t → t = base) ∧
    (exec .crcInit s = .next t → t = { base with crcState := t.crcState }) ∧
    (∀ b, exec (.crcByte b) s = .next t → t = { base with crcState := t.crcState }) ∧
    (exec .crcMem s = .next t → t = { base with crcState := t.crcState }) ∧
    (exec .crcFinal s = .next t → t = { base with crcOut := t.crcOut }) ∧
    (exec .frStart s = .next t → t = { base with
      inPtr := t.inPtr, inEnd := t.inEnd, seq := t.seq, chunkLen := t.chunkLen, chunkTag := t.chunkTag
      chunkCrc := t.chunkCrc, chunkCrcCalc := t.chunkCrcCalc, chunkClass := t.chunkClass
      chunkPayload := t.chunkPayload, zbLen := t.zbLen, cfg := t.cfg }) ∧
    (exec .frSig s = .next t → t = { base with inPtr := t.inPtr, seq := t.seq }) ∧
    (exec .frChunk s = .next t → t = { base with
      inPtr := t.inPtr, seq := t.seq, chunkLen := t.chunkLen, chunkTag := t.chunkTag, chunkCrc := t.chunkCrc
      chunkCrcCalc := t.chunkCrcCalc, chunkClass := t.chunkClass, chunkPayload := t.chunkPayload
      zbLen := t.zbLen, cfg := t.cfg, mem := t.mem }) ∧
    (exec .ldHdr s = .next t → t = { base with cfg := t.cfg }) ∧
    (exec .ldPlte s = .next t →
      t = { base with cfg := { s.cfg with
        plteCount := t.cfg.plteCount, palette := t.cfg.palette, valid := { s.cfg.valid with plte := t.cfg.valid.plte } } }) ∧
    (exec .ldTrns s = .next t →
      t = { base with cfg := { s.cfg with
        trnsCount := t.cfg.trnsCount, trnsKey0 := t.cfg.trnsKey0, trnsKey1 := t.cfg.trnsKey1
        trnsKey2 := t.cfg.trnsKey2, alpha := t.cfg.alpha, valid := { s.cfg.valid with trns := t.cfg.valid.trns } } }) ∧
    (exec .zbAppend s = .next t → t = { base with zbLen := t.zbLen, mem := t.mem }) ∧
    (exec .defilt s = .next t → t = { base with mem := t.mem }) ∧
    (∀ f, exec (.fltByte f) s = .next t → t = { base with result := t.result }) ∧
    (∀ d, exec (.sample d) s = .next t → t = { base with result := t.result }) ∧
    (exec .conv s = .next t → t = { base with mem := t.mem })

/-- 60_exceptions.md R410, R417, over every command: after an error completion the state is the one before the command,
changed only as R410 lists. -/
def Obligations.ErrorsArePrecise : Prop :=
  ∀ (i : Instr) (s t : State), exec i s = .next t → t.status.err = true →
    t = { s with
      status := ⟨false, true, true, s.status.overrun, t.status.errCode⟩, errInfo := t.errInfo, latch := none
      seq := t.seq, chunkCrcCalc := t.chunkCrcCalc } ∧
    (t.seq = s.seq ∨ (t.seq = { s.seq with state := .failed } ∧ (i = .frSig ∨ i = .frChunk))) ∧
    (t.chunkCrcCalc = s.chunkCrcCalc ∨
      (i = .frChunk ∧
        t.chunkCrcCalc = crc32 (memRead s.mem (s.inPtr.toNat + 4) (4 + (be32 s.mem s.inPtr.toNat).toNat))))

/-- 60_exceptions.md R410, R411, R401, over every command: the status after any completion. That `SRESET` clears `OVERRUN`
is 49_control.md R391. That it clears `ERR_INFO` is the model's reading (assumption log 17, DEDUCED). -/
def Obligations.CompletionStatus : Prop :=
  ∀ (i : Instr) (s t : State), exec i s = .next t →
    t.status.busy = false ∧ t.status.done = true ∧ t.latch = none ∧
    (t.status.overrun = if i = .sreset then false else s.status.overrun) ∧
    (t.status.err = false → t.status.errCode = 0 ∧ t.errInfo = if i = .sreset then 0 else s.errInfo) ∧
    (t.status.err = true → 1 ≤ t.status.errCode.toNat ∧ t.status.errCode.toNat ≤ 13 ∧ t.status.errCode ≠ 7)

/-- 60_exceptions.md R403: which errors, as (`ERRCODE`, `ERR_INFO`), each command can raise, in a state the invariant
allows. `OutOfOrderChunk(7)` is not among `FR.CHUNK`'s. -/
def Obligations.ErrorsEachCommandCanRaise : Prop :=
  ∀ (i : Instr) (s t : State), i.wellFormed = true → BlockInv s → exec i s = .next t → t.status.err = true →
    let e := (t.status.errCode.toNat, t.errInfo.toNat)
    match i with
    | .nop | .sreset | .crcInit | .crcByte _ | .crcFinal => False
    | .crcMem | .frStart | .sample _ => e = (13, 1)
    | .frSig => e ∈ [(12, 4), (1, 1), (1, 2)]
    | .frChunk =>
      e ∈ [(12, 4), (6, 6), (2, 1), (2, 2), (2, 3), (6, 1), (6, 2), (6, 3), (6, 5),
        (3, 1), (3, 2), (3, 3), (3, 4), (3, 5), (3, 6), (3, 7), (6, 4), (4, 1), (4, 2),
        (5, 1), (5, 2), (5, 3), (13, 2), (11, 1)]
    | .ldHdr => e ∈ [(13, 1), (3, 1), (3, 2), (3, 3), (3, 4), (3, 5), (3, 6), (3, 7)]
    | .ldPlte => e ∈ [(13, 1), (6, 7), (6, 4), (4, 1), (4, 2)]
    | .ldTrns => e ∈ [(13, 1), (6, 7), (5, 1), (5, 2), (5, 3)]
    | .zbAppend => e ∈ [(13, 1), (13, 2), (11, 1)]
    | .defilt =>
      e ∈ [(12, 5), (3, 8), (13, 1), (13, 3), (8, 1), (11, 2)] ∨ (e.1 = 9 ∧ e.2 < s.cfg.hdrHeight.toNat)
    | .fltByte _ => e = (9, 0)
    | .conv => e ∈ [(12, 5), (10, 3), (13, 1), (13, 3), (10, 1), (10, 2), (11, 3)]

/-! ### Host interface -/

/-- 10_state.md R36, R35 and 60_exceptions.md R414: a host write of `CMD` is accepted when the block is idle and lost,
with `OVERRUN` set and nothing else changed, when it is busy; a read returns the last accepted word. -/
def Obligations.CmdWriteIsAcceptedOrLost : Prop :=
  ∀ (s : State) (ts : List Turn) (w : Word), s.turns = .host (.writeReg (s.params.regBase + 0x00C) 4 w) :: ts →
    (s.status.busy = false → ∃ t, step s = .next t ∧
      t = { s with
        turns := ts, latch := some w, cmd := w, errInfo := 0
        status := { busy := true, done := false, err := false, overrun := s.status.overrun, errCode := 0 } } ∧
      step { t with turns := .host (.readReg (s.params.regBase + 0x00C) 4) :: ts } = .next { t with readData := some w }) ∧
    (s.status.busy = true →
      step s = .next { s with turns := ts, status := { s.status with overrun := true } })

/-- 60_exceptions.md R414: `OVERRUN` stays 1 until the host clears it, `SRESET` or a hardware reset: every step that ends
with it 0 is one of those, `SRESET` by the engine's move on its word. That the engine moves when the schedule is empty is
the model's choice (assumption log 4, DESIGN CHOICE). -/
def Obligations.OverrunStaysUntilCleared : Prop :=
  ∀ s t : State, step s = .next t → s.status.overrun = true → t.status.overrun = false →
    (∃ ts v, s.turns = .host (.writeReg (s.params.regBase + 0x008) 4 v) :: ts ∧ v.getLsbD 3 = true) ∨
    (∃ ts, s.turns = .host .hardwareReset :: ts) ∨
    (s.latch = some 0x00000001 ∧ (s.turns = [] ∨ ∃ ts, s.turns = .engine :: ts))

/-- 60_exceptions.md R413: a host write of `v` to `STATUS`, busy or not. -/
def Obligations.StatusIsWriteOneToClear : Prop :=
  ∀ (s : State) (ts : List Turn) (v : Word), s.turns = .host (.writeReg (s.params.regBase + 0x008) 4 v) :: ts →
    ∃ t, step s = .next t ∧
      t = { s with turns := ts, status := { s.status with done := t.status.done, overrun := t.status.overrun } } ∧
      (t.status.done = if v.getLsbD 1 then false else s.status.done) ∧
      (t.status.overrun = if v.getLsbD 3 then false else s.status.overrun) ∧
      (BlockInv s → s.status.busy = true → t.status.done = s.status.done)

/-- 60_exceptions.md R412: the interrupt line is high after every completion with `IRQ_EN = 1`, and low after acceptance,
after `DONE` is cleared, and after `IRQ_EN <- 0`. -/
def Obligations.InterruptLineFollowsDone : Prop :=
  (∀ s : State, s.irq = (s.status.done && s.ctrl.irqEn)) ∧
  (∀ (i : Instr) (s t : State), exec i s = .next t → t.irq = s.ctrl.irqEn) ∧
  (∀ (s t : State) (ts : List Turn) (v : Word), step s = .next t →
    (s.turns = .host (.writeReg (s.params.regBase + 0x00C) 4 v) :: ts → s.status.busy = false → t.irq = false) ∧
    (s.turns = .host (.writeReg (s.params.regBase + 0x008) 4 v) :: ts → v.getLsbD 1 = true → t.irq = false) ∧
    (s.turns = .host (.writeReg (s.params.regBase + 0x004) 4 v) :: ts → v.getLsbD 0 = false → t.irq = false))

/-- 10_state.md R67, R32 and 20_memory.md R111: the accesses the model refuses. An offset that names no register counts as
one of the refused while busy (assumption log 8, DEDUCED). -/
def Obligations.UndefinedHostAccessesAreRefused : Prop :=
  ∀ (s : State) (ts : List Turn) (off : Nat) (v : Word) (a : Nat) (b : Byte), off < 0x1000 →
    (∀ width, width ≠ 4 ∨ off % 4 ≠ 0 →
      (s.turns = .host (.readReg (s.params.regBase + off) width) :: ts → step s = .refused .accessNot32BitAligned) ∧
      (s.turns = .host (.writeReg (s.params.regBase + off) width v) :: ts →
        step s = .refused .accessNot32BitAligned)) ∧
    (s.status.busy = true → off % 4 = 0 →
      (s.turns = .host (.readReg (s.params.regBase + off) 4) :: ts →
        off ≠ 0x000 → off ≠ 0x004 → off ≠ 0x008 → off ≠ 0x00C → step s = .refused .registerWhileBusy) ∧
      (s.turns = .host (.writeReg (s.params.regBase + off) 4 v) :: ts →
        off ≠ 0x004 → off ≠ 0x008 → off ≠ 0x00C → step s = .refused .registerWhileBusy)) ∧
    (s.status.busy = true →
      (s.turns = .host (.readMem a) :: ts → step s = .refused .memoryWhileBusy) ∧
      (s.turns = .host (.writeMem a b) :: ts → step s = .refused .memoryWhileBusy))

/-- 10_state.md R32 to R63: what the block answers to a read at each offset of the window, the fields of R34, R35, R45,
R51, R53, R56 and R59 at their bits, and 0 where no register is listed: `ID`, `CTRL`, `STATUS` and `CMD` busy or not (R67,
70_reset_and_hazards.md R460), the others on an idle block. A read changes nothing. -/
def Obligations.RegisterWindowReads : Prop :=
  ∀ s : State,
    let reads := fun (off v : Nat) =>
      step { s with turns := [.host (.readReg (s.params.regBase + off) 4)] } =
        .next { s with turns := [], readData := some (BitVec.ofNat 32 v) }
    let seqState := match s.seq.state with
      | .idle => 0 | .expectSig => 1 | .expectIhdr => 2 | .body => 3 | .done => 4 | .failed => 5
    let cls := match s.chunkClass with
      | .noneYet => 0 | .header => 1 | .palette => 2 | .transparency => 3 | .imageData => 4 | .endMarker => 5 | .other => 6
    reads 0x000 0x504E4701 ∧ reads 0x004 s.ctrl.irqEn.toNat ∧
    reads 0x008 (s.status.busy.toNat + 2 * s.status.done.toNat + 4 * s.status.err.toNat + 8 * s.status.overrun.toNat +
      256 * s.status.errCode.toNat) ∧
    reads 0x00C s.cmd.toNat ∧
    (s.status.busy = false →
    reads 0x010 s.arg0.toNat ∧ reads 0x014 s.arg1.toNat ∧ reads 0x018 s.arg2.toNat ∧
    reads 0x01C s.arg3.toNat ∧ reads 0x020 s.errInfo.toNat ∧ reads 0x024 s.result.toNat ∧
    reads 0x030 s.crcState.toNat ∧ reads 0x034 s.crcOut.toNat ∧ reads 0x040 s.inPtr.toNat ∧
    reads 0x044 s.inEnd.toNat ∧
    reads 0x048 (seqState + 16 * s.seq.seenPlte.toNat + 32 * s.seq.seenTrns.toNat + 64 * s.seq.seenIdat.toNat) ∧
    reads 0x050 s.chunkLen.toNat ∧ reads 0x054 s.chunkTag.toNat ∧ reads 0x058 s.chunkCrc.toNat ∧
    reads 0x05C s.chunkCrcCalc.toNat ∧ reads 0x060 cls ∧ reads 0x064 s.chunkPayload.toNat ∧
    reads 0x070 s.zbBase.toNat ∧ reads 0x074 s.zbCap.toNat ∧ reads 0x078 s.zbLen.toNat ∧
    reads 0x080 (s.cfg.valid.hdr.toNat + 2 * s.cfg.valid.plte.toNat + 4 * s.cfg.valid.trns.toNat) ∧
    reads 0x084 s.cfg.hdrWidth.toNat ∧ reads 0x088 s.cfg.hdrHeight.toNat ∧
    reads 0x08C (s.cfg.hdrFmt.depth.toNat + 256 * s.cfg.hdrFmt.color.toNat + 65536 * s.cfg.hdrFmt.comp.toNat +
      16777216 * s.cfg.hdrFmt.filt.toNat) ∧
    reads 0x090 s.cfg.hdrIl.toNat ∧ reads 0x094 s.cfg.plteCount.toNat ∧ reads 0x098 s.cfg.trnsCount.toNat ∧
    reads 0x09C s.cfg.trnsKey0.toNat ∧ reads 0x0A0 s.cfg.trnsKey1.toNat ∧ reads 0x0A4 s.cfg.trnsKey2.toNat ∧
    (∀ i : Byte, reads (0x400 + 4 * i.toNat) ((tableAt s.cfg.palette i).red.toNat +
      256 * (tableAt s.cfg.palette i).green.toNat + 65536 * (tableAt s.cfg.palette i).blue.toNat)) ∧
    (∀ i : Byte, reads (0x800 + 4 * i.toNat) (tableAt s.cfg.alpha i).toNat) ∧
    (∀ off, off % 4 = 0 → 0x0A8 ≤ off → off < 0x400 → reads off 0) ∧
    (∀ off, off % 4 = 0 → 0xC00 ≤ off → off < 0x1000 → reads off 0) ∧
    (∀ off ∈ [0x028, 0x02C, 0x038, 0x03C, 0x04C, 0x068, 0x06C, 0x07C], reads off 0))

/-- 10_state.md R32, R34, R37, R40, R50: a write of a read-write register sets it, a reserved bit ignores it, a read-only
register and an offset with no register ignore it. `CTRL` is written busy or not (R34, R67, 70_reset_and_hazards.md R460),
the others on an idle block. -/
def Obligations.RegisterWindowWrites : Prop :=
  ∀ (s : State) (v : Word),
    let writes := fun (off : Nat) (t : State) =>
      step { s with turns := [.host (.writeReg (s.params.regBase + off) 4 v)] } = .next { t with turns := [] }
    writes 0x004 { s with ctrl := ⟨v.getLsbD 0⟩ } ∧
    (s.status.busy = false →
    writes 0x010 { s with arg0 := v } ∧ writes 0x014 { s with arg1 := v } ∧ writes 0x018 { s with arg2 := v } ∧
    writes 0x01C { s with arg3 := v } ∧ writes 0x030 { s with crcState := v } ∧ writes 0x070 { s with zbBase := v } ∧
    writes 0x074 { s with zbCap := v } ∧ writes 0x078 { s with zbLen := v } ∧
    (∀ off, off % 4 = 0 → off < 0x1000 →
      off ∉ [0x004, 0x008, 0x00C, 0x010, 0x014, 0x018, 0x01C, 0x030, 0x070, 0x074, 0x078] → writes off s))

/-- 20_memory.md R108, R111, 70_reset_and_hazards.md R460: the data-memory byte port of an idle block. That an address
at or above `MEM_SIZE` is refused is the model's reading (assumption log 10). -/
def Obligations.DataMemoryBytePort : Prop :=
  ∀ (s : State) (ts : List Turn) (a : Nat) (b : Byte), s.status.busy = false → Memory.wf s.mem →
    (a < s.params.memSize →
      (s.turns = .host (.readMem a) :: ts →
        step s = .next { s with turns := ts, readData := some ((memByte s.mem a).zeroExtend 32) }) ∧
      (s.turns = .host (.writeMem a b) :: ts → ∃ t, step s = .next t ∧
        t = { s with turns := ts, mem := t.mem } ∧ memByte t.mem a = b ∧
        ∀ c, c ≠ a → memByte t.mem c = memByte s.mem c)) ∧
    (s.params.memSize ≤ a →
      (s.turns = .host (.readMem a) :: ts → step s = .refused .outsideMemory) ∧
      (s.turns = .host (.writeMem a b) :: ts → step s = .refused .outsideMemory))

/-! ### Invariants -/

/-- The invariant, 10_state.md R60 and R66 among its clauses, holds at reset and at power-on, whatever bytes data memory
holds then (20_memory.md R102). -/
def Obligations.ResetMeetsTheInvariant : Prop :=
  BlockInv State.reset ∧ ∀ (p : Config.Params) (drawn : Nat → Byte), BlockInv (State.powerOn p drawn)

/-- 10_state.md R66, R60, R43, R59, R63: every step, of the engine and of the host, keeps the invariant, and the
parameters never change. -/
def Obligations.StepKeepsTheInvariant : Prop :=
  ∀ s t : State, BlockInv s → step s = .next t → BlockInv t ∧ t.params = s.params

/-- 70_reset_and_hazards.md R455: every accepted command completes. In every state the invariant allows, the engine's
step on a latched word, whatever the word, answers a next state: no fault and no refusal. That the engine moves when the
schedule is empty is the model's choice (assumption log 4, DESIGN CHOICE). -/
def Obligations.EveryAcceptedCommandCompletes : Prop :=
  ∀ (s : State) (w : Word), BlockInv s → s.latch = some w → s.turns = [] ∨ (∃ ts, s.turns = .engine :: ts) →
    ∃ t, step s = .next t ∧ t.latch = none ∧ t.status.busy = false ∧ t.status.done = true

/-- The model's own stops (assumption logs 6 and 7, DESIGN CHOICE): where `FR.SIG`, `FR.CHUNK`, `DEFILT`, `CONV` and `LD.TRNS`
fault for want of a rule, that `exec` faults in no state of the invariant, and that it refuses nothing. -/
def Obligations.CommandsStopOnlyOutsideTheInvariant : Prop :=
  ∀ s : State,
    (s.params.memSize < s.inEnd.toNat →
      (s.seq.state = .expectSig → exec .frSig s = .fault .streamOutsideMemory) ∧
      (s.seq.state = .expectIhdr ∨ s.seq.state = .body → exec .frChunk s = .fault .streamOutsideMemory)) ∧
    (s.cfg.valid.hdr = true → imageShape s.cfg = none → s.seq.state = .idle ∨ s.seq.state = .done →
      s.arg0.toNat + s.arg1.toNat ≤ s.params.memSize → s.arg2.toNat + s.arg3.toNat ≤ s.params.memSize →
      exec .defilt s = .fault .headerNotLegal ∧ exec .conv s = .fault .headerNotLegal) ∧
    (s.cfg.valid.hdr = true → s.cfg.hdrFmt.color ∉ ([0, 2, 3, 4, 6] : List Byte) →
      (s.arg0.toNat + s.arg1.toNat ≤ s.params.memSize → exec .ldTrns s = .fault .headerNotLegal) ∧
      (∀ len, s.seq.state = .body → s.seq.seenTrns = false → ChunkSound s len 0x74524E53 →
        exec .frChunk s = .fault .headerNotLegal)) ∧
    (∀ (i : Instr) (f : Fault), exec i s = .fault f → ¬BlockInv s) ∧
    (∀ (i : Instr) (r : Refusal), exec i s ≠ .refused r)

/-! ### The quantities the statements are told in -/

/-- 00_scope.md R16 and R13, written out: what the header registers describe, with the codes of R9 and the depths of
42_loaders.md R272, the bytes of a row (the least number that holds its bits), the bytes of a pixel, and the big-endian
reads (20_memory.md R103 to R106). The statements about the framer, the loaders, `DEFILT` and `CONV` use these functions. -/
def Obligations.ImageQuantitiesAndFieldReads : Prop :=
  (∀ (c : ImageConfig) (sh : ImageShape), imageShape c = some sh ↔
    sh.width = c.hdrWidth.toNat ∧ sh.height = c.hdrHeight.toNat ∧ sh.depth = c.hdrFmt.depth.toNat ∧
    (sh.mode = .gray ∧ c.hdrFmt.color = 0 ∧ sh.depth ∈ [1, 2, 4, 8, 16] ∨
      sh.mode = .rgb ∧ c.hdrFmt.color = 2 ∧ sh.depth ∈ [8, 16] ∨
      sh.mode = .palette ∧ c.hdrFmt.color = 3 ∧ sh.depth ∈ [1, 2, 4, 8] ∨
      sh.mode = .grayAlpha ∧ c.hdrFmt.color = 4 ∧ sh.depth ∈ [8, 16] ∨
      sh.mode = .rgba ∧ c.hdrFmt.color = 6 ∧ sh.depth ∈ [8, 16])) ∧
  (∀ sh : ImageShape,
    let chans := match sh.mode with
      | .gray => 1 | .palette => 1 | .grayAlpha => 2 | .rgb => 3 | .rgba => 4
    let bits := sh.width * chans * sh.depth
    channels sh.mode = chans ∧
    (∀ n, bytesPerLine sh ≤ n ↔ bits ≤ 8 * n) ∧
    (sh.depth < 8 → bytesPerPixel sh = 1) ∧
    (8 ≤ sh.depth → bytesPerPixel sh = chans * (sh.depth / 8))) ∧
  (∀ (m : Memory) (a : Nat),
    (be16 m a).toNat = 256 * (memByte m a).toNat + (memByte m (a + 1)).toNat ∧
    (be32 m a).toNat = 16777216 * (memByte m a).toNat + 65536 * (memByte m (a + 1)).toNat +
      256 * (memByte m (a + 2)).toNat + (memByte m (a + 3)).toNat)
end

