-- ==== Sys2Proof/Laws/Memory.lean ====
section
/-! SUPPORT. The laws of data memory: read after write, the canonical form, and that two canonical memories which read the same are equal. -/

namespace Sys2Proof.Machine

@[simp] theorem memByte_nil (a : Nat) : memByte [] a = unlistedByte a := rfl

theorem memByte_cons (c : Host.Cell) (m : Memory) (a : Nat) :
    memByte (c :: m) a = if a = c.1 then c.2 else memByte m a := rfl

theorem Memory.wf_nil : Memory.wf [] := by simp [Memory.wf]

/-- The canonical form, one cell at a time. -/
theorem Memory.wf_cons_iff (c : Host.Cell) (m : Memory) :
    Memory.wf (c :: m) ↔ (∀ d ∈ m, c.1 < d.1) ∧ c.2 ≠ unlistedByte c.1 ∧ Memory.wf m := by
  simp only [Memory.wf, List.pairwise_cons, List.forall_mem_cons]
  tauto

/-- An address below every listed one reads as unlisted. -/
theorem memByte_of_lt_all {m : Memory} {a : Nat} (h : ∀ d ∈ m, a < d.1) : memByte m a = unlistedByte a := by
  induction m with
  | nil => rfl
  | cons c m ih =>
    rw [memByte_cons, if_neg (Nat.ne_of_lt (h c List.mem_cons_self))]
    exact ih fun d hd => h d (List.mem_cons_of_mem _ hd)

/-- A write lists no address but the old ones and its own. -/
theorem mem_setByte {m : Memory} {a : Nat} {b : Byte} {c : Host.Cell} (h : c ∈ setByte m a b) :
    c ∈ m ∨ c = (a, b) := by
  induction m with
  | nil =>
    unfold setByte at h
    split at h
    · simp at h
    · exact .inr (by simpa using h)
  | cons d m ih =>
    unfold setByte at h
    split at h
    · split at h
      · exact .inl h
      · rcases List.mem_cons.mp h with rfl | h
        · exact .inr rfl
        · exact .inl h
    · split at h
      · split at h
        · exact .inl (List.mem_cons_of_mem _ h)
        · rcases List.mem_cons.mp h with rfl | h
          · exact .inr rfl
          · exact .inl (List.mem_cons_of_mem _ h)
      · rcases List.mem_cons.mp h with rfl | h
        · exact .inl List.mem_cons_self
        · rcases ih h with h | h
          · exact .inl (List.mem_cons_of_mem _ h)
          · exact .inr h

/-- A write keeps the canonical form. -/
theorem setByte_wf {m : Memory} (h : Memory.wf m) (a : Nat) (b : Byte) : Memory.wf (setByte m a b) := by
  induction m with
  | nil =>
    unfold setByte
    split
    · exact h
    · exact (Memory.wf_cons_iff _ _).mpr ⟨by simp, by assumption, h⟩
  | cons d m ih =>
    obtain ⟨hlt, hd, hm⟩ := (Memory.wf_cons_iff _ _).mp h
    unfold setByte
    split
    · next hak =>
      split
      · exact h
      · refine (Memory.wf_cons_iff _ _).mpr ⟨fun e he => ?_, by assumption, h⟩
        rcases List.mem_cons.mp he with rfl | he
        · exact hak
        · exact Nat.lt_trans hak (hlt e he)
    · split
      · next hka =>
        subst hka
        split
        · exact hm
        · exact (Memory.wf_cons_iff _ _).mpr ⟨hlt, by assumption, hm⟩
      · refine (Memory.wf_cons_iff _ _).mpr ⟨fun e he => ?_, hd, ih hm⟩
        rcases mem_setByte he with he | rfl
        · exact hlt e he
        · show d.1 < a
          omega

/-- Reading the byte just written. -/
theorem memByte_setByte_same {m : Memory} (h : Memory.wf m) (a : Nat) (b : Byte) : memByte (setByte m a b) a = b := by
  induction m with
  | nil =>
    unfold setByte
    split
    · simp_all
    · simp [memByte_cons]
  | cons d m ih =>
    obtain ⟨hlt, hd, hm⟩ := (Memory.wf_cons_iff _ _).mp h
    unfold setByte
    split
    · next hak =>
      split
      · next hb =>
        rw [hb]
        refine memByte_of_lt_all fun e he => ?_
        rcases List.mem_cons.mp he with rfl | he
        · exact hak
        · exact Nat.lt_trans hak (hlt e he)
      · simp [memByte_cons]
    · split
      · next hka =>
        subst hka
        split
        · next hb => rw [hb]; exact memByte_of_lt_all hlt
        · simp [memByte_cons]
      · next hne => rw [memByte_cons, if_neg hne]; exact ih hm

/-- A write leaves every other byte alone. -/
theorem memByte_setByte_other (m : Memory) {a c : Nat} (b : Byte) (h : c ≠ a) :
    memByte (setByte m a b) c = memByte m c := by
  induction m with
  | nil =>
    unfold setByte
    split
    · rfl
    · simp [memByte_cons, h]
  | cons d m ih =>
    unfold setByte
    split
    · split
      · rfl
      · simp [memByte_cons, h]
    · split
      · next hka =>
        subst hka
        split
        · simp [memByte_cons, h]
        · simp [memByte_cons, h]
      · simp only [memByte_cons, ih]

/-- A write of several bytes keeps the canonical form. -/
theorem memWrite_wf {m : Memory} (h : Memory.wf m) (a : Nat) (bs : List Byte) : Memory.wf (memWrite m a bs) := by
  induction bs generalizing m a with
  | nil => exact h
  | cons b bs ih => exact ih (setByte_wf h a b) (a + 1)

/-- A write of several bytes leaves the bytes outside its range alone. -/
theorem memByte_memWrite_outside (m : Memory) {a c : Nat} (bs : List Byte) (h : ¬(a ≤ c ∧ c < a + bs.length)) :
    memByte (memWrite m a bs) c = memByte m c := by
  induction bs generalizing m a with
  | nil => rfl
  | cons b bs ih =>
    simp only [List.length_cons] at h
    rw [memWrite, ih _ (by omega), memByte_setByte_other _ _ (by omega)]

/-- Reading byte `k` of a range just written. -/
theorem memByte_memWrite_inside {m : Memory} (h : Memory.wf m) (a : Nat) (bs : List Byte) {k : Nat}
    (hk : k < bs.length) : memByte (memWrite m a bs) (a + k) = bs[k] := by
  induction bs generalizing m a k with
  | nil => simp at hk
  | cons b bs ih =>
    cases k with
    | zero =>
      rw [memWrite, memByte_memWrite_outside _ _ (by omega)]
      simpa using memByte_setByte_same h a b
    | succ k =>
      have := ih (setByte_wf h a b) (a + 1) (k := k) (by simpa using hk)
      rw [memWrite, show a + (k + 1) = a + 1 + k by omega, this]
      rfl

/-- A write of several bytes lists only old addresses and those of its range. -/
theorem mem_memWrite {m : Memory} {a : Nat} {bs : List Byte} {c : Host.Cell} (h : c ∈ memWrite m a bs) :
    c ∈ m ∨ (a ≤ c.1 ∧ c.1 < a + bs.length) := by
  induction bs generalizing m a with
  | nil => exact .inl h
  | cons b bs ih =>
    simp only [List.length_cons]
    rcases ih h with h | h
    · rcases mem_setByte h with h | rfl
      · exact .inl h
      · exact .inr ⟨Nat.le_refl _, by show a < _; omega⟩
    · exact .inr ⟨by omega, by omega⟩

@[simp] theorem memRead_length (m : Memory) (a n : Nat) : (memRead m a n).length = n := by
  induction n generalizing a with
  | zero => rfl
  | succ n ih => simp [memRead, ih]

theorem drawMemory_wf (drawn : Nat → Byte) (n : Nat) : Memory.wf (drawMemory drawn n) := by
  induction n with
  | zero => exact Memory.wf_nil
  | succ n ih => exact setByte_wf ih n (drawn n)

theorem mem_drawMemory {drawn : Nat → Byte} {n : Nat} {c : Host.Cell} (h : c ∈ drawMemory drawn n) : c.1 < n := by
  induction n with
  | zero => simp [drawMemory] at h
  | succ n ih =>
    rcases mem_setByte h with h | rfl
    · exact Nat.lt_succ_of_lt (ih h)
    · exact Nat.lt_succ_self n

/-- Every byte below the size is the one drawn (20_memory.md R102). -/
theorem memByte_drawMemory (drawn : Nat → Byte) {n a : Nat} (h : a < n) : memByte (drawMemory drawn n) a = drawn a := by
  induction n with
  | zero => omega
  | succ n ih =>
    rw [drawMemory]
    by_cases ha : a = n
    · rw [ha, memByte_setByte_same (drawMemory_wf drawn n)]
    · rw [memByte_setByte_other _ _ ha, ih (by omega)]

theorem drawMemory_unlisted (n : Nat) : drawMemory unlistedByte n = [] := by
  induction n with
  | zero => rfl
  | succ n ih => rw [drawMemory, ih]; simp [setByte]

/-- The reset state is a power-on state. -/
theorem State.powerOn_zero : State.powerOn Config.defaultParams unlistedByte = State.reset := by
  rw [State.powerOn, drawMemory_unlisted, State.reset]

theorem memRead_getElem (m : Memory) (a n : Nat) {k : Nat} (h : k < (memRead m a n).length) :
    (memRead m a n)[k] = memByte m (a + k) := by
  induction n generalizing a k with
  | zero => simp [memRead] at h
  | succ n ih =>
    cases k with
    | zero => simp [memRead]
    | succ k =>
      simp only [memRead, List.getElem_cons_succ]
      rw [ih (a + 1) (by simpa [memRead] using h)]
      congr 1
      omega

theorem memRead_append (m : Memory) (a n k : Nat) :
    memRead m a (n + k) = memRead m a n ++ memRead m (a + n) k := by
  induction n generalizing a with
  | zero => simp [memRead]
  | succ n ih =>
    rw [Nat.add_right_comm]
    simp only [memRead, List.cons_append]
    rw [ih, show a + 1 + n = a + (n + 1) by omega]

/-- Memories that agree on a range give the same bytes there. -/
theorem memRead_congr {m m' : Memory} {a n : Nat} (h : ∀ k < n, memByte m (a + k) = memByte m' (a + k)) :
    memRead m a n = memRead m' a n := by
  apply List.ext_getElem (by simp)
  intro k hk _
  rw [memRead_getElem, memRead_getElem]
  exact h k (by simpa using hk)

/-- Equal reads, equal data: two canonical memories that read the same everywhere are the same list. -/
theorem Memory.ext_of_wf {m m' : Memory} (h : Memory.wf m) (h' : Memory.wf m')
    (heq : ∀ a, memByte m a = memByte m' a) : m = m' := by
  induction m generalizing m' with
  | nil =>
    cases m' with
    | nil => rfl
    | cons d m' =>
      obtain ⟨-, hd, -⟩ := (Memory.wf_cons_iff _ _).mp h'
      have := heq d.1
      simp [memByte_cons] at this
      exact absurd this.symm hd
  | cons c m ih =>
    obtain ⟨hlt, hc, hm⟩ := (Memory.wf_cons_iff _ _).mp h
    cases m' with
    | nil =>
      have := heq c.1
      simp [memByte_cons] at this
      exact absurd this hc
    | cons d m' =>
      obtain ⟨hlt', hd, hm'⟩ := (Memory.wf_cons_iff _ _).mp h'
      have hcd : c.1 = d.1 := by
        rcases Nat.lt_trichotomy c.1 d.1 with hl | he | hl
        · have := heq c.1
          rw [memByte_cons, if_pos rfl, memByte_of_lt_all] at this
          · exact absurd this hc
          · intro e he
            rcases List.mem_cons.mp he with rfl | he
            · exact hl
            · exact Nat.lt_trans hl (hlt' e he)
        · exact he
        · have := heq d.1
          rw [memByte_cons d, if_pos rfl, memByte_of_lt_all] at this
          · exact absurd this.symm hd
          · intro e he
            rcases List.mem_cons.mp he with rfl | he
            · exact hl
            · exact Nat.lt_trans hl (hlt e he)
      have hcd2 : c = d := by
        have := heq c.1
        rw [memByte_cons, if_pos rfl, memByte_cons, if_pos hcd] at this
        exact Prod.ext hcd this
      subst hcd2
      rw [ih hm hm' fun a => ?_]
      by_cases ha : a = c.1
      · subst ha
        rw [memByte_of_lt_all hlt, memByte_of_lt_all hlt']
      · have := heq a
        rwa [memByte_cons, if_neg ha, memByte_cons, if_neg ha] at this

end Sys2Proof.Machine
end

