-- ==== Sys2Proof/Laws/State.lean ====
section
/-! SUPPORT. What each named update of State does to each field: true by rfl, so that no later proof unfolds a record update. -/

namespace Sys2Proof.Machine

/-! ### `complete` (60_exceptions.md R411) -/

@[simp] theorem complete_params (s : State) : (complete s).params = s.params := rfl
@[simp] theorem complete_mem (s : State) : (complete s).mem = s.mem := rfl
@[simp] theorem complete_ctrl (s : State) : (complete s).ctrl = s.ctrl := rfl
@[simp] theorem complete_status (s : State) : (complete s).status = statusSuccess s.status := rfl
@[simp] theorem complete_cmd (s : State) : (complete s).cmd = s.cmd := rfl
@[simp] theorem complete_arg0 (s : State) : (complete s).arg0 = s.arg0 := rfl
@[simp] theorem complete_arg1 (s : State) : (complete s).arg1 = s.arg1 := rfl
@[simp] theorem complete_arg2 (s : State) : (complete s).arg2 = s.arg2 := rfl
@[simp] theorem complete_arg3 (s : State) : (complete s).arg3 = s.arg3 := rfl
@[simp] theorem complete_errInfo (s : State) : (complete s).errInfo = s.errInfo := rfl
@[simp] theorem complete_result (s : State) : (complete s).result = s.result := rfl
@[simp] theorem complete_crcState (s : State) : (complete s).crcState = s.crcState := rfl
@[simp] theorem complete_crcOut (s : State) : (complete s).crcOut = s.crcOut := rfl
@[simp] theorem complete_inPtr (s : State) : (complete s).inPtr = s.inPtr := rfl
@[simp] theorem complete_inEnd (s : State) : (complete s).inEnd = s.inEnd := rfl
@[simp] theorem complete_seq (s : State) : (complete s).seq = s.seq := rfl
@[simp] theorem complete_chunkLen (s : State) : (complete s).chunkLen = s.chunkLen := rfl
@[simp] theorem complete_chunkTag (s : State) : (complete s).chunkTag = s.chunkTag := rfl
@[simp] theorem complete_chunkCrc (s : State) : (complete s).chunkCrc = s.chunkCrc := rfl
@[simp] theorem complete_chunkCrcCalc (s : State) : (complete s).chunkCrcCalc = s.chunkCrcCalc := rfl
@[simp] theorem complete_chunkClass (s : State) : (complete s).chunkClass = s.chunkClass := rfl
@[simp] theorem complete_chunkPayload (s : State) : (complete s).chunkPayload = s.chunkPayload := rfl
@[simp] theorem complete_zbBase (s : State) : (complete s).zbBase = s.zbBase := rfl
@[simp] theorem complete_zbCap (s : State) : (complete s).zbCap = s.zbCap := rfl
@[simp] theorem complete_zbLen (s : State) : (complete s).zbLen = s.zbLen := rfl
@[simp] theorem complete_cfg (s : State) : (complete s).cfg = s.cfg := rfl
@[simp] theorem complete_latch (s : State) : (complete s).latch = none := rfl
@[simp] theorem complete_turns (s : State) : (complete s).turns = s.turns := rfl
@[simp] theorem complete_readData (s : State) : (complete s).readData = s.readData := rfl

/-! ### `raiseError` (60_exceptions.md R410) -/

@[simp] theorem raiseError_params (s : State) (e : ErrorKind) (info : Word) :
    (raiseError s e info).params = s.params := rfl
@[simp] theorem raiseError_mem (s : State) (e : ErrorKind) (info : Word) :
    (raiseError s e info).mem = s.mem := rfl
@[simp] theorem raiseError_ctrl (s : State) (e : ErrorKind) (info : Word) :
    (raiseError s e info).ctrl = s.ctrl := rfl
@[simp] theorem raiseError_status (s : State) (e : ErrorKind) (info : Word) :
    (raiseError s e info).status = statusError e s.status := rfl
@[simp] theorem raiseError_cmd (s : State) (e : ErrorKind) (info : Word) :
    (raiseError s e info).cmd = s.cmd := rfl
@[simp] theorem raiseError_arg0 (s : State) (e : ErrorKind) (info : Word) :
    (raiseError s e info).arg0 = s.arg0 := rfl
@[simp] theorem raiseError_arg1 (s : State) (e : ErrorKind) (info : Word) :
    (raiseError s e info).arg1 = s.arg1 := rfl
@[simp] theorem raiseError_arg2 (s : State) (e : ErrorKind) (info : Word) :
    (raiseError s e info).arg2 = s.arg2 := rfl
@[simp] theorem raiseError_arg3 (s : State) (e : ErrorKind) (info : Word) :
    (raiseError s e info).arg3 = s.arg3 := rfl
@[simp] theorem raiseError_errInfo (s : State) (e : ErrorKind) (info : Word) :
    (raiseError s e info).errInfo = info := rfl
@[simp] theorem raiseError_result (s : State) (e : ErrorKind) (info : Word) :
    (raiseError s e info).result = s.result := rfl
@[simp] theorem raiseError_crcState (s : State) (e : ErrorKind) (info : Word) :
    (raiseError s e info).crcState = s.crcState := rfl
@[simp] theorem raiseError_crcOut (s : State) (e : ErrorKind) (info : Word) :
    (raiseError s e info).crcOut = s.crcOut := rfl
@[simp] theorem raiseError_inPtr (s : State) (e : ErrorKind) (info : Word) :
    (raiseError s e info).inPtr = s.inPtr := rfl
@[simp] theorem raiseError_inEnd (s : State) (e : ErrorKind) (info : Word) :
    (raiseError s e info).inEnd = s.inEnd := rfl
@[simp] theorem raiseError_seq (s : State) (e : ErrorKind) (info : Word) :
    (raiseError s e info).seq = s.seq := rfl
@[simp] theorem raiseError_chunkLen (s : State) (e : ErrorKind) (info : Word) :
    (raiseError s e info).chunkLen = s.chunkLen := rfl
@[simp] theorem raiseError_chunkTag (s : State) (e : ErrorKind) (info : Word) :
    (raiseError s e info).chunkTag = s.chunkTag := rfl
@[simp] theorem raiseError_chunkCrc (s : State) (e : ErrorKind) (info : Word) :
    (raiseError s e info).chunkCrc = s.chunkCrc := rfl
@[simp] theorem raiseError_chunkCrcCalc (s : State) (e : ErrorKind) (info : Word) :
    (raiseError s e info).chunkCrcCalc = s.chunkCrcCalc := rfl
@[simp] theorem raiseError_chunkClass (s : State) (e : ErrorKind) (info : Word) :
    (raiseError s e info).chunkClass = s.chunkClass := rfl
@[simp] theorem raiseError_chunkPayload (s : State) (e : ErrorKind) (info : Word) :
    (raiseError s e info).chunkPayload = s.chunkPayload := rfl
@[simp] theorem raiseError_zbBase (s : State) (e : ErrorKind) (info : Word) :
    (raiseError s e info).zbBase = s.zbBase := rfl
@[simp] theorem raiseError_zbCap (s : State) (e : ErrorKind) (info : Word) :
    (raiseError s e info).zbCap = s.zbCap := rfl
@[simp] theorem raiseError_zbLen (s : State) (e : ErrorKind) (info : Word) :
    (raiseError s e info).zbLen = s.zbLen := rfl
@[simp] theorem raiseError_cfg (s : State) (e : ErrorKind) (info : Word) :
    (raiseError s e info).cfg = s.cfg := rfl
@[simp] theorem raiseError_latch (s : State) (e : ErrorKind) (info : Word) :
    (raiseError s e info).latch = none := rfl
@[simp] theorem raiseError_turns (s : State) (e : ErrorKind) (info : Word) :
    (raiseError s e info).turns = s.turns := rfl
@[simp] theorem raiseError_readData (s : State) (e : ErrorKind) (info : Word) :
    (raiseError s e info).readData = s.readData := rfl

/-! ### `failStream` (41_framer.md R239) -/

@[simp] theorem failStream_params (s : State) (e : ErrorKind) (info : Word) :
    (failStream s e info).params = s.params := rfl
@[simp] theorem failStream_mem (s : State) (e : ErrorKind) (info : Word) :
    (failStream s e info).mem = s.mem := rfl
@[simp] theorem failStream_ctrl (s : State) (e : ErrorKind) (info : Word) :
    (failStream s e info).ctrl = s.ctrl := rfl
@[simp] theorem failStream_status (s : State) (e : ErrorKind) (info : Word) :
    (failStream s e info).status = statusError e s.status := rfl
@[simp] theorem failStream_cmd (s : State) (e : ErrorKind) (info : Word) :
    (failStream s e info).cmd = s.cmd := rfl
@[simp] theorem failStream_arg0 (s : State) (e : ErrorKind) (info : Word) :
    (failStream s e info).arg0 = s.arg0 := rfl
@[simp] theorem failStream_arg1 (s : State) (e : ErrorKind) (info : Word) :
    (failStream s e info).arg1 = s.arg1 := rfl
@[simp] theorem failStream_arg2 (s : State) (e : ErrorKind) (info : Word) :
    (failStream s e info).arg2 = s.arg2 := rfl
@[simp] theorem failStream_arg3 (s : State) (e : ErrorKind) (info : Word) :
    (failStream s e info).arg3 = s.arg3 := rfl
@[simp] theorem failStream_errInfo (s : State) (e : ErrorKind) (info : Word) :
    (failStream s e info).errInfo = info := rfl
@[simp] theorem failStream_result (s : State) (e : ErrorKind) (info : Word) :
    (failStream s e info).result = s.result := rfl
@[simp] theorem failStream_crcState (s : State) (e : ErrorKind) (info : Word) :
    (failStream s e info).crcState = s.crcState := rfl
@[simp] theorem failStream_crcOut (s : State) (e : ErrorKind) (info : Word) :
    (failStream s e info).crcOut = s.crcOut := rfl
@[simp] theorem failStream_inPtr (s : State) (e : ErrorKind) (info : Word) :
    (failStream s e info).inPtr = s.inPtr := rfl
@[simp] theorem failStream_inEnd (s : State) (e : ErrorKind) (info : Word) :
    (failStream s e info).inEnd = s.inEnd := rfl
@[simp] theorem failStream_seq (s : State) (e : ErrorKind) (info : Word) :
    (failStream s e info).seq = { s.seq with state := .failed } := rfl
@[simp] theorem failStream_chunkLen (s : State) (e : ErrorKind) (info : Word) :
    (failStream s e info).chunkLen = s.chunkLen := rfl
@[simp] theorem failStream_chunkTag (s : State) (e : ErrorKind) (info : Word) :
    (failStream s e info).chunkTag = s.chunkTag := rfl
@[simp] theorem failStream_chunkCrc (s : State) (e : ErrorKind) (info : Word) :
    (failStream s e info).chunkCrc = s.chunkCrc := rfl
@[simp] theorem failStream_chunkCrcCalc (s : State) (e : ErrorKind) (info : Word) :
    (failStream s e info).chunkCrcCalc = s.chunkCrcCalc := rfl
@[simp] theorem failStream_chunkClass (s : State) (e : ErrorKind) (info : Word) :
    (failStream s e info).chunkClass = s.chunkClass := rfl
@[simp] theorem failStream_chunkPayload (s : State) (e : ErrorKind) (info : Word) :
    (failStream s e info).chunkPayload = s.chunkPayload := rfl
@[simp] theorem failStream_zbBase (s : State) (e : ErrorKind) (info : Word) :
    (failStream s e info).zbBase = s.zbBase := rfl
@[simp] theorem failStream_zbCap (s : State) (e : ErrorKind) (info : Word) :
    (failStream s e info).zbCap = s.zbCap := rfl
@[simp] theorem failStream_zbLen (s : State) (e : ErrorKind) (info : Word) :
    (failStream s e info).zbLen = s.zbLen := rfl
@[simp] theorem failStream_cfg (s : State) (e : ErrorKind) (info : Word) :
    (failStream s e info).cfg = s.cfg := rfl
@[simp] theorem failStream_latch (s : State) (e : ErrorKind) (info : Word) :
    (failStream s e info).latch = none := rfl
@[simp] theorem failStream_turns (s : State) (e : ErrorKind) (info : Word) :
    (failStream s e info).turns = s.turns := rfl
@[simp] theorem failStream_readData (s : State) (e : ErrorKind) (info : Word) :
    (failStream s e info).readData = s.readData := rfl

/-! ### `acceptCommand` (10_state.md R36) -/

@[simp] theorem acceptCommand_params (s : State) (w : Word) : (acceptCommand s w).params = s.params := rfl
@[simp] theorem acceptCommand_mem (s : State) (w : Word) : (acceptCommand s w).mem = s.mem := rfl
@[simp] theorem acceptCommand_ctrl (s : State) (w : Word) : (acceptCommand s w).ctrl = s.ctrl := rfl
@[simp] theorem acceptCommand_status (s : State) (w : Word) : (acceptCommand s w).status = statusAccept s.status := rfl
@[simp] theorem acceptCommand_cmd (s : State) (w : Word) : (acceptCommand s w).cmd = w := rfl
@[simp] theorem acceptCommand_arg0 (s : State) (w : Word) : (acceptCommand s w).arg0 = s.arg0 := rfl
@[simp] theorem acceptCommand_arg1 (s : State) (w : Word) : (acceptCommand s w).arg1 = s.arg1 := rfl
@[simp] theorem acceptCommand_arg2 (s : State) (w : Word) : (acceptCommand s w).arg2 = s.arg2 := rfl
@[simp] theorem acceptCommand_arg3 (s : State) (w : Word) : (acceptCommand s w).arg3 = s.arg3 := rfl
@[simp] theorem acceptCommand_errInfo (s : State) (w : Word) : (acceptCommand s w).errInfo = 0 := rfl
@[simp] theorem acceptCommand_result (s : State) (w : Word) : (acceptCommand s w).result = s.result := rfl
@[simp] theorem acceptCommand_crcState (s : State) (w : Word) : (acceptCommand s w).crcState = s.crcState := rfl
@[simp] theorem acceptCommand_crcOut (s : State) (w : Word) : (acceptCommand s w).crcOut = s.crcOut := rfl
@[simp] theorem acceptCommand_inPtr (s : State) (w : Word) : (acceptCommand s w).inPtr = s.inPtr := rfl
@[simp] theorem acceptCommand_inEnd (s : State) (w : Word) : (acceptCommand s w).inEnd = s.inEnd := rfl
@[simp] theorem acceptCommand_seq (s : State) (w : Word) : (acceptCommand s w).seq = s.seq := rfl
@[simp] theorem acceptCommand_chunkLen (s : State) (w : Word) : (acceptCommand s w).chunkLen = s.chunkLen := rfl
@[simp] theorem acceptCommand_chunkTag (s : State) (w : Word) : (acceptCommand s w).chunkTag = s.chunkTag := rfl
@[simp] theorem acceptCommand_chunkCrc (s : State) (w : Word) : (acceptCommand s w).chunkCrc = s.chunkCrc := rfl
@[simp] theorem acceptCommand_chunkCrcCalc (s : State) (w : Word) : (acceptCommand s w).chunkCrcCalc = s.chunkCrcCalc := rfl
@[simp] theorem acceptCommand_chunkClass (s : State) (w : Word) : (acceptCommand s w).chunkClass = s.chunkClass := rfl
@[simp] theorem acceptCommand_chunkPayload (s : State) (w : Word) : (acceptCommand s w).chunkPayload = s.chunkPayload := rfl
@[simp] theorem acceptCommand_zbBase (s : State) (w : Word) : (acceptCommand s w).zbBase = s.zbBase := rfl
@[simp] theorem acceptCommand_zbCap (s : State) (w : Word) : (acceptCommand s w).zbCap = s.zbCap := rfl
@[simp] theorem acceptCommand_zbLen (s : State) (w : Word) : (acceptCommand s w).zbLen = s.zbLen := rfl
@[simp] theorem acceptCommand_cfg (s : State) (w : Word) : (acceptCommand s w).cfg = s.cfg := rfl
@[simp] theorem acceptCommand_latch (s : State) (w : Word) : (acceptCommand s w).latch = some w := rfl
@[simp] theorem acceptCommand_turns (s : State) (w : Word) : (acceptCommand s w).turns = s.turns := rfl
@[simp] theorem acceptCommand_readData (s : State) (w : Word) : (acceptCommand s w).readData = s.readData := rfl

/-! ### `openStream` (41_framer.md R232) -/

@[simp] theorem openStream_params (s : State) (a n : Nat) : (openStream s a n).params = s.params := rfl
@[simp] theorem openStream_mem (s : State) (a n : Nat) : (openStream s a n).mem = s.mem := rfl
@[simp] theorem openStream_ctrl (s : State) (a n : Nat) : (openStream s a n).ctrl = s.ctrl := rfl
@[simp] theorem openStream_status (s : State) (a n : Nat) : (openStream s a n).status = s.status := rfl
@[simp] theorem openStream_cmd (s : State) (a n : Nat) : (openStream s a n).cmd = s.cmd := rfl
@[simp] theorem openStream_arg0 (s : State) (a n : Nat) : (openStream s a n).arg0 = s.arg0 := rfl
@[simp] theorem openStream_arg1 (s : State) (a n : Nat) : (openStream s a n).arg1 = s.arg1 := rfl
@[simp] theorem openStream_arg2 (s : State) (a n : Nat) : (openStream s a n).arg2 = s.arg2 := rfl
@[simp] theorem openStream_arg3 (s : State) (a n : Nat) : (openStream s a n).arg3 = s.arg3 := rfl
@[simp] theorem openStream_errInfo (s : State) (a n : Nat) : (openStream s a n).errInfo = s.errInfo := rfl
@[simp] theorem openStream_result (s : State) (a n : Nat) : (openStream s a n).result = s.result := rfl
@[simp] theorem openStream_crcState (s : State) (a n : Nat) : (openStream s a n).crcState = s.crcState := rfl
@[simp] theorem openStream_crcOut (s : State) (a n : Nat) : (openStream s a n).crcOut = s.crcOut := rfl
@[simp] theorem openStream_inPtr (s : State) (a n : Nat) : (openStream s a n).inPtr = BitVec.ofNat 32 a := rfl
@[simp] theorem openStream_inEnd (s : State) (a n : Nat) : (openStream s a n).inEnd = BitVec.ofNat 32 (a + n) := rfl
@[simp] theorem openStream_seq (s : State) (a n : Nat) : (openStream s a n).seq = ⟨.expectSig, false, false, false⟩ := rfl
@[simp] theorem openStream_chunkLen (s : State) (a n : Nat) : (openStream s a n).chunkLen = 0 := rfl
@[simp] theorem openStream_chunkTag (s : State) (a n : Nat) : (openStream s a n).chunkTag = 0 := rfl
@[simp] theorem openStream_chunkCrc (s : State) (a n : Nat) : (openStream s a n).chunkCrc = 0 := rfl
@[simp] theorem openStream_chunkCrcCalc (s : State) (a n : Nat) : (openStream s a n).chunkCrcCalc = 0 := rfl
@[simp] theorem openStream_chunkClass (s : State) (a n : Nat) : (openStream s a n).chunkClass = .noneYet := rfl
@[simp] theorem openStream_chunkPayload (s : State) (a n : Nat) : (openStream s a n).chunkPayload = 0 := rfl
@[simp] theorem openStream_zbBase (s : State) (a n : Nat) : (openStream s a n).zbBase = s.zbBase := rfl
@[simp] theorem openStream_zbCap (s : State) (a n : Nat) : (openStream s a n).zbCap = s.zbCap := rfl
@[simp] theorem openStream_zbLen (s : State) (a n : Nat) : (openStream s a n).zbLen = 0 := rfl
@[simp] theorem openStream_cfg (s : State) (a n : Nat) : (openStream s a n).cfg = ImageConfig.cleared := rfl
@[simp] theorem openStream_latch (s : State) (a n : Nat) : (openStream s a n).latch = s.latch := rfl
@[simp] theorem openStream_turns (s : State) (a n : Nat) : (openStream s a n).turns = s.turns := rfl
@[simp] theorem openStream_readData (s : State) (a n : Nat) : (openStream s a n).readData = s.readData := rfl

/-! ### `acceptChunk` (41_framer.md R234) -/

@[simp] theorem acceptChunk_params (s : State) (p len : Nat) (tag stored : Word) (cls : ChunkClass) :
    (acceptChunk s p len tag stored cls).params = s.params := rfl
@[simp] theorem acceptChunk_mem (s : State) (p len : Nat) (tag stored : Word) (cls : ChunkClass) :
    (acceptChunk s p len tag stored cls).mem = s.mem := rfl
@[simp] theorem acceptChunk_ctrl (s : State) (p len : Nat) (tag stored : Word) (cls : ChunkClass) :
    (acceptChunk s p len tag stored cls).ctrl = s.ctrl := rfl
@[simp] theorem acceptChunk_status (s : State) (p len : Nat) (tag stored : Word) (cls : ChunkClass) :
    (acceptChunk s p len tag stored cls).status = s.status := rfl
@[simp] theorem acceptChunk_cmd (s : State) (p len : Nat) (tag stored : Word) (cls : ChunkClass) :
    (acceptChunk s p len tag stored cls).cmd = s.cmd := rfl
@[simp] theorem acceptChunk_arg0 (s : State) (p len : Nat) (tag stored : Word) (cls : ChunkClass) :
    (acceptChunk s p len tag stored cls).arg0 = s.arg0 := rfl
@[simp] theorem acceptChunk_arg1 (s : State) (p len : Nat) (tag stored : Word) (cls : ChunkClass) :
    (acceptChunk s p len tag stored cls).arg1 = s.arg1 := rfl
@[simp] theorem acceptChunk_arg2 (s : State) (p len : Nat) (tag stored : Word) (cls : ChunkClass) :
    (acceptChunk s p len tag stored cls).arg2 = s.arg2 := rfl
@[simp] theorem acceptChunk_arg3 (s : State) (p len : Nat) (tag stored : Word) (cls : ChunkClass) :
    (acceptChunk s p len tag stored cls).arg3 = s.arg3 := rfl
@[simp] theorem acceptChunk_errInfo (s : State) (p len : Nat) (tag stored : Word) (cls : ChunkClass) :
    (acceptChunk s p len tag stored cls).errInfo = s.errInfo := rfl
@[simp] theorem acceptChunk_result (s : State) (p len : Nat) (tag stored : Word) (cls : ChunkClass) :
    (acceptChunk s p len tag stored cls).result = s.result := rfl
@[simp] theorem acceptChunk_crcState (s : State) (p len : Nat) (tag stored : Word) (cls : ChunkClass) :
    (acceptChunk s p len tag stored cls).crcState = s.crcState := rfl
@[simp] theorem acceptChunk_crcOut (s : State) (p len : Nat) (tag stored : Word) (cls : ChunkClass) :
    (acceptChunk s p len tag stored cls).crcOut = s.crcOut := rfl
@[simp] theorem acceptChunk_inPtr (s : State) (p len : Nat) (tag stored : Word) (cls : ChunkClass) :
    (acceptChunk s p len tag stored cls).inPtr = BitVec.ofNat 32 (p + 12 + len) := rfl
@[simp] theorem acceptChunk_inEnd (s : State) (p len : Nat) (tag stored : Word) (cls : ChunkClass) :
    (acceptChunk s p len tag stored cls).inEnd = s.inEnd := rfl
@[simp] theorem acceptChunk_seq (s : State) (p len : Nat) (tag stored : Word) (cls : ChunkClass) :
    (acceptChunk s p len tag stored cls).seq = seqAdvance s.seq cls := rfl
@[simp] theorem acceptChunk_chunkLen (s : State) (p len : Nat) (tag stored : Word) (cls : ChunkClass) :
    (acceptChunk s p len tag stored cls).chunkLen = BitVec.ofNat 32 len := rfl
@[simp] theorem acceptChunk_chunkTag (s : State) (p len : Nat) (tag stored : Word) (cls : ChunkClass) :
    (acceptChunk s p len tag stored cls).chunkTag = tag := rfl
@[simp] theorem acceptChunk_chunkCrc (s : State) (p len : Nat) (tag stored : Word) (cls : ChunkClass) :
    (acceptChunk s p len tag stored cls).chunkCrc = stored := rfl
@[simp] theorem acceptChunk_chunkCrcCalc (s : State) (p len : Nat) (tag stored : Word) (cls : ChunkClass) :
    (acceptChunk s p len tag stored cls).chunkCrcCalc = s.chunkCrcCalc := rfl
@[simp] theorem acceptChunk_chunkClass (s : State) (p len : Nat) (tag stored : Word) (cls : ChunkClass) :
    (acceptChunk s p len tag stored cls).chunkClass = cls := rfl
@[simp] theorem acceptChunk_chunkPayload (s : State) (p len : Nat) (tag stored : Word) (cls : ChunkClass) :
    (acceptChunk s p len tag stored cls).chunkPayload = BitVec.ofNat 32 (p + 8) := rfl
@[simp] theorem acceptChunk_zbBase (s : State) (p len : Nat) (tag stored : Word) (cls : ChunkClass) :
    (acceptChunk s p len tag stored cls).zbBase = s.zbBase := rfl
@[simp] theorem acceptChunk_zbCap (s : State) (p len : Nat) (tag stored : Word) (cls : ChunkClass) :
    (acceptChunk s p len tag stored cls).zbCap = s.zbCap := rfl
@[simp] theorem acceptChunk_zbLen (s : State) (p len : Nat) (tag stored : Word) (cls : ChunkClass) :
    (acceptChunk s p len tag stored cls).zbLen = s.zbLen := rfl
@[simp] theorem acceptChunk_cfg (s : State) (p len : Nat) (tag stored : Word) (cls : ChunkClass) :
    (acceptChunk s p len tag stored cls).cfg = s.cfg := rfl
@[simp] theorem acceptChunk_latch (s : State) (p len : Nat) (tag stored : Word) (cls : ChunkClass) :
    (acceptChunk s p len tag stored cls).latch = s.latch := rfl
@[simp] theorem acceptChunk_turns (s : State) (p len : Nat) (tag stored : Word) (cls : ChunkClass) :
    (acceptChunk s p len tag stored cls).turns = s.turns := rfl
@[simp] theorem acceptChunk_readData (s : State) (p len : Nat) (tag stored : Word) (cls : ChunkClass) :
    (acceptChunk s p len tag stored cls).readData = s.readData := rfl

/-! ### `resetRegisters` (10_state.md R65): what it keeps; every other register is `State.resetWith`'s -/

@[simp] theorem resetRegisters_params (s : State) : (resetRegisters s).params = s.params := rfl
@[simp] theorem resetRegisters_mem (s : State) : (resetRegisters s).mem = s.mem := rfl
@[simp] theorem resetRegisters_turns (s : State) : (resetRegisters s).turns = s.turns := rfl
@[simp] theorem resetRegisters_readData (s : State) : (resetRegisters s).readData = s.readData := rfl
@[simp] theorem resetRegisters_ctrl (s : State) : (resetRegisters s).ctrl = ⟨false⟩ := rfl
@[simp] theorem resetRegisters_status (s : State) : (resetRegisters s).status = ⟨false, false, false, false, 0⟩ := rfl
@[simp] theorem resetRegisters_cmd (s : State) : (resetRegisters s).cmd = 0 := rfl
@[simp] theorem resetRegisters_arg0 (s : State) : (resetRegisters s).arg0 = 0 := rfl
@[simp] theorem resetRegisters_arg1 (s : State) : (resetRegisters s).arg1 = 0 := rfl
@[simp] theorem resetRegisters_arg2 (s : State) : (resetRegisters s).arg2 = 0 := rfl
@[simp] theorem resetRegisters_arg3 (s : State) : (resetRegisters s).arg3 = 0 := rfl
@[simp] theorem resetRegisters_errInfo (s : State) : (resetRegisters s).errInfo = 0 := rfl
@[simp] theorem resetRegisters_result (s : State) : (resetRegisters s).result = 0 := rfl
@[simp] theorem resetRegisters_crcState (s : State) : (resetRegisters s).crcState = 0xFFFFFFFF := rfl
@[simp] theorem resetRegisters_crcOut (s : State) : (resetRegisters s).crcOut = 0 := rfl
@[simp] theorem resetRegisters_inPtr (s : State) : (resetRegisters s).inPtr = 0 := rfl
@[simp] theorem resetRegisters_inEnd (s : State) : (resetRegisters s).inEnd = 0 := rfl
@[simp] theorem resetRegisters_seq (s : State) : (resetRegisters s).seq = ⟨.idle, false, false, false⟩ := rfl
@[simp] theorem resetRegisters_chunkLen (s : State) : (resetRegisters s).chunkLen = 0 := rfl
@[simp] theorem resetRegisters_chunkTag (s : State) : (resetRegisters s).chunkTag = 0 := rfl
@[simp] theorem resetRegisters_chunkCrc (s : State) : (resetRegisters s).chunkCrc = 0 := rfl
@[simp] theorem resetRegisters_chunkCrcCalc (s : State) : (resetRegisters s).chunkCrcCalc = 0 := rfl
@[simp] theorem resetRegisters_chunkClass (s : State) : (resetRegisters s).chunkClass = .noneYet := rfl
@[simp] theorem resetRegisters_chunkPayload (s : State) : (resetRegisters s).chunkPayload = 0 := rfl
@[simp] theorem resetRegisters_zbBase (s : State) : (resetRegisters s).zbBase = 0 := rfl
@[simp] theorem resetRegisters_zbCap (s : State) : (resetRegisters s).zbCap = 0 := rfl
@[simp] theorem resetRegisters_zbLen (s : State) : (resetRegisters s).zbLen = 0 := rfl
@[simp] theorem resetRegisters_cfg (s : State) : (resetRegisters s).cfg = ImageConfig.cleared := rfl
@[simp] theorem resetRegisters_latch (s : State) : (resetRegisters s).latch = none := rfl

/-! ### `STATUS` updates (10_state.md R35, 60_exceptions.md R410, R411, R414) -/

@[simp] theorem statusAccept_busy (st : Status) : (statusAccept st).busy = true := rfl
@[simp] theorem statusAccept_done (st : Status) : (statusAccept st).done = false := rfl
@[simp] theorem statusAccept_err (st : Status) : (statusAccept st).err = false := rfl
@[simp] theorem statusAccept_overrun (st : Status) : (statusAccept st).overrun = st.overrun := rfl
@[simp] theorem statusAccept_errCode (st : Status) : (statusAccept st).errCode = 0 := rfl
@[simp] theorem statusSuccess_busy (st : Status) : (statusSuccess st).busy = false := rfl
@[simp] theorem statusSuccess_done (st : Status) : (statusSuccess st).done = true := rfl
@[simp] theorem statusSuccess_err (st : Status) : (statusSuccess st).err = false := rfl
@[simp] theorem statusSuccess_overrun (st : Status) : (statusSuccess st).overrun = st.overrun := rfl
@[simp] theorem statusSuccess_errCode (st : Status) : (statusSuccess st).errCode = 0 := rfl
@[simp] theorem statusError_busy (e : ErrorKind) (st : Status) : (statusError e st).busy = false := rfl
@[simp] theorem statusError_done (e : ErrorKind) (st : Status) : (statusError e st).done = true := rfl
@[simp] theorem statusError_err (e : ErrorKind) (st : Status) : (statusError e st).err = true := rfl
@[simp] theorem statusError_overrun (e : ErrorKind) (st : Status) : (statusError e st).overrun = st.overrun := rfl
@[simp] theorem statusError_errCode (e : ErrorKind) (st : Status) : (statusError e st).errCode = errorCode e := rfl
@[simp] theorem statusOverrun_busy (st : Status) : (statusOverrun st).busy = st.busy := rfl
@[simp] theorem statusOverrun_done (st : Status) : (statusOverrun st).done = st.done := rfl
@[simp] theorem statusOverrun_err (st : Status) : (statusOverrun st).err = st.err := rfl
@[simp] theorem statusOverrun_overrun (st : Status) : (statusOverrun st).overrun = true := rfl
@[simp] theorem statusOverrun_errCode (st : Status) : (statusOverrun st).errCode = st.errCode := rfl
@[simp] theorem statusWriteOneToClear_busy (v : Word) (st : Status) : (statusWriteOneToClear v st).busy = st.busy := rfl
@[simp] theorem statusWriteOneToClear_done (v : Word) (st : Status) : (statusWriteOneToClear v st).done = (st.done && !v.getLsbD 1) := rfl
@[simp] theorem statusWriteOneToClear_err (v : Word) (st : Status) : (statusWriteOneToClear v st).err = st.err := rfl
@[simp] theorem statusWriteOneToClear_overrun (v : Word) (st : Status) : (statusWriteOneToClear v st).overrun = (st.overrun && !v.getLsbD 3) := rfl
@[simp] theorem statusWriteOneToClear_errCode (v : Word) (st : Status) : (statusWriteOneToClear v st).errCode = st.errCode := rfl

end Sys2Proof.Machine
end

