-- ==== Sys2Proof/Laws/Ops.lean ====
section
/-! SUPPORT. Each shared operation's one inversion lemma: range checks, completions, tables, the image shape. -/

namespace Sys2Proof.Machine

theorem inMem_iff (s : State) (a n : Nat) : inMem s a n = true ↔ a + n ≤ s.params.memSize := by simp [inMem]

theorem inMem_false_iff (s : State) (a n : Nat) : inMem s a n = false ↔ s.params.memSize < a + n := by simp [inMem]

theorem streamClosed_iff (s : State) : streamClosed s = true ↔ s.seq.state = .idle ∨ s.seq.state = .done := by
  simp [streamClosed]

/-- All that `finish` can do: complete the body's state, or raise in the state the command began in. -/
theorem finish_next {s t : State} {r : Res State} (h : finish s r = .next t) :
    (∃ u, r = .ok u ∧ t = complete u) ∨ (∃ e info, r = .raise e info ∧ t = raiseError s e info) := by
  cases r with
  | ok u => exact .inl ⟨u, rfl, by simpa [finish] using h.symm⟩
  | raise e info => exact .inr ⟨e, info, rfl, by simpa [finish] using h.symm⟩
  | stop f => simp [finish] at h

/-- All that `finishFramer` can do: the same, with errors through the framer's failure. -/
theorem finishFramer_next {s t : State} {r : Res State} (h : finishFramer s r = .next t) :
    (∃ u, r = .ok u ∧ t = complete u) ∨ (∃ e info, r = .raise e info ∧ t = failStream s e info) := by
  cases r with
  | ok u => exact .inl ⟨u, rfl, by simpa [finishFramer] using h.symm⟩
  | raise e info => exact .inr ⟨e, info, rfl, by simpa [finishFramer] using h.symm⟩
  | stop f => simp [finishFramer] at h

@[simp] theorem finish_ok (s u : State) : finish s (.ok u) = .next (complete u) := rfl
@[simp] theorem finish_raise (s : State) (e : ErrorKind) (info : Word) :
    finish s (.raise e info) = .next (raiseError s e info) := rfl
@[simp] theorem finishFramer_ok (s u : State) : finishFramer s (.ok u) = .next (complete u) := rfl
@[simp] theorem finishFramer_raise (s : State) (e : ErrorKind) (info : Word) :
    finishFramer s (.raise e info) = .next (failStream s e info) := rfl

/-- The error codes are 1 to 13 (60_exceptions.md R401). -/
theorem errorCode_range (e : ErrorKind) : 1 ≤ (errorCode e).toNat ∧ (errorCode e).toNat ≤ 13 := by
  cases e <;> decide

/-- Entry `i` of a table built from a list (42_loaders.md R275, R277). -/
theorem tableAt_tableOf {α : Type} (d : α) (xs : List α) (i : Byte) : tableAt (tableOf d xs) i = xs.getD i.toNat d := by
  have hi : i.toNat < 256 := i.isLt
  simp only [tableAt, tableOf, Vector.getElem_mk, List.getElem_toArray, List.getD_eq_getElem?_getD]
  rw [List.getElem_append]
  split
  · next h =>
    rw [List.length_take] at h
    rw [List.getElem_take, List.getElem?_eq_getElem (by omega)]
    rfl
  · next h =>
    rw [List.length_take] at h
    rw [List.getElem_replicate, List.getElem?_eq_none (by omega)]
    rfl

@[simp] theorem tableAt_replicate {α : Type} (d : α) (i : Byte) : tableAt (Vector.replicate 256 d) i = d := by
  simp [tableAt]

/-- The colour codes (00_scope.md R9). -/
theorem colorModeOf_eq_some_iff (c : Byte) (m : ColorMode) :
    colorModeOf c = some m ↔
      (c = 0 ∧ m = .gray) ∨ (c = 2 ∧ m = .rgb) ∨ (c = 3 ∧ m = .palette) ∨ (c = 4 ∧ m = .grayAlpha) ∨
        (c = 6 ∧ m = .rgba) := by
  revert c; cases m <;> decide

theorem colorModeOf_eq_none_iff (c : Byte) :
    colorModeOf c = none ↔ c ≠ 0 ∧ c ≠ 2 ∧ c ≠ 3 ∧ c ≠ 4 ∧ c ≠ 6 := by
  revert c; decide

/-- What a configuration whose header describes an image says of it. -/
theorem imageShape_eq_some {cfg : ImageConfig} {sh : ImageShape} (h : imageShape cfg = some sh) :
    colorModeOf cfg.hdrFmt.color = some sh.mode ∧ depthLegal sh.mode sh.depth = true ∧
      sh.depth = cfg.hdrFmt.depth.toNat ∧ sh.width = cfg.hdrWidth.toNat ∧ sh.height = cfg.hdrHeight.toNat := by
  unfold imageShape at h
  split at h
  · simp at h
  · next mode hm =>
    split at h
    · next hd =>
      obtain rfl := Option.some.inj h
      exact ⟨hm, hd, rfl, rfl, rfl⟩
    · simp at h

/-- The legal depths of each mode, as numbers (42_loaders.md R272). -/
theorem depthLegal_iff (m : ColorMode) (d : Nat) :
    depthLegal m d = true ↔
      match m with
      | .gray => d = 1 ∨ d = 2 ∨ d = 4 ∨ d = 8 ∨ d = 16
      | .palette => d = 1 ∨ d = 2 ∨ d = 4 ∨ d = 8
      | .rgb | .grayAlpha | .rgba => d = 8 ∨ d = 16 := by
  cases m <;> simp [depthLegal, legalDepths]

end Sys2Proof.Machine
end

