-- ==== Sys2Proof/Laws/Defilter.lean ====
section
/-! SUPPORT. The reconstructed rows: their lengths and the recurrence each byte obeys (43_defilter.md R313, R314, R322), and what the bodies of DEFILT, FLT.BYTE and SAMPLE can answer. -/

namespace Sys2Proof.Machine

/-! ### One row -/

@[simp] theorem reconRowFrom_length (t : FilterType) (bpp : Nat) (above : List Byte) (x : Nat) (newest fs : List Byte) :
    (reconRowFrom t bpp above x newest fs).length = fs.length := by
  induction fs generalizing x newest with
  | nil => rfl
  | cons f fs ih => simp [reconRowFrom, ih]

@[simp] theorem reconRow_length (t : FilterType) (bpp : Nat) (above fs : List Byte) :
    (reconRow t bpp above fs).length = fs.length := reconRowFrom_length ..

/-- The recurrence of a row, with the bytes before position `x` given newest first. -/
theorem reconRowFrom_getD (t : FilterType) {bpp : Nat} (hb : 1 ≤ bpp) (above : List Byte) (newest fs : List Byte)
    {k : Nat} (hk : k < fs.length) :
    let x := newest.length
    let full := newest.reverse ++ reconRowFrom t bpp above x newest fs
    full.getD (x + k) 0 =
      recon t (fs.getD k 0) (if bpp ≤ x + k then full.getD (x + k - bpp) 0 else 0) (above.getD (x + k) 0)
        (if bpp ≤ x + k then above.getD (x + k - bpp) 0 else 0) := by
  induction fs generalizing newest k with
  | nil => simp at hk
  | cons f fs ih =>
    intro x full
    cases k with
    | zero =>
      have hfull : full.getD (x + 0) 0 = recon t f (if bpp ≤ x then newest.getD (bpp - 1) 0 else 0) (above.getD x 0)
          (if bpp ≤ x then above.getD (x - bpp) 0 else 0) := by
        simp [full, x, reconRowFrom, List.getD_eq_getElem?_getD]
      rw [hfull]
      simp only [Nat.add_zero, List.getD_cons_zero]
      congr 1
      split
      · next h =>
        have h1 : x - bpp < newest.reverse.length := by simp only [List.length_reverse]; omega
        simp only [full, List.getD_eq_getElem?_getD]
        rw [List.getElem?_append_left h1, List.getElem?_reverse (by simpa using h1)]
        congr 2
        omega
      · rfl
    | succ k =>
      have hk' : k < fs.length := by simpa using hk
      have h := ih (recon t f (if bpp ≤ x then newest.getD (bpp - 1) 0 else 0) (above.getD x 0)
          (if bpp ≤ x then above.getD (x - bpp) 0 else 0) :: newest) hk'
      simp only [List.length_cons, List.reverse_cons, List.append_assoc, List.cons_append, List.nil_append] at h
      rw [show newest.length + 1 + k = x + (k + 1) by simp only [x]; omega] at h
      exact h

/-- The recurrence of a row (43_defilter.md R313, R314). -/
theorem reconRow_getD (t : FilterType) {bpp : Nat} (hb : 1 ≤ bpp) (above fs : List Byte) {x : Nat}
    (hx : x < fs.length) :
    (reconRow t bpp above fs).getD x 0 =
      recon t (fs.getD x 0) (if bpp ≤ x then (reconRow t bpp above fs).getD (x - bpp) 0 else 0) (above.getD x 0)
        (if bpp ≤ x then above.getD (x - bpp) 0 else 0) := by
  have h := reconRowFrom_getD t hb above [] fs hx
  simpa [reconRow] using h

/-! ### All rows -/

theorem reconRows_length (bpp bpl : Nat) (above : List Byte) (rows : List (FilterType × List Byte))
    (hl : ∀ r ∈ rows, r.2.length = bpl) : (reconRows bpp above rows).length = rows.length * bpl := by
  induction rows generalizing above with
  | nil => simp [reconRows]
  | cons r rows ih =>
    obtain ⟨t, fs⟩ := r
    have h0 : fs.length = bpl := hl _ List.mem_cons_self
    rw [reconRows, List.length_append, reconRow_length, h0, ih _ fun r hr => hl r (List.mem_cons_of_mem _ hr),
      List.length_cons, Nat.succ_mul, Nat.add_comm]

/-- The recurrence of the image's bytes: row `y`, byte `x`, over the row above it (43_defilter.md R313, R314, R322). -/
theorem reconRows_getD {bpp bpl : Nat} (hb : 1 ≤ bpp) (above : List Byte) (rows : List (FilterType × List Byte))
    (hl : ∀ r ∈ rows, r.2.length = bpl) {y x : Nat} (hy : y < rows.length) (hx : x < bpl) :
    let out := fun v u => (reconRows bpp above rows).getD (v * bpl + u) 0
    let up := fun u => if y = 0 then above.getD u 0 else out (y - 1) u
    out y x = recon rows[y].1 (rows[y].2.getD x 0) (if bpp ≤ x then out y (x - bpp) else 0) (up x)
      (if bpp ≤ x then up (x - bpp) else 0) := by
  induction rows generalizing above y with
  | nil => simp at hy
  | cons r rows ih =>
    obtain ⟨t, fs⟩ := r
    have h0 : fs.length = bpl := hl _ List.mem_cons_self
    have hfirst : ∀ u < bpl, (reconRows bpp above ((t, fs) :: rows)).getD u 0 = (reconRow t bpp above fs).getD u 0 := by
      intro u hu
      simp only [List.getD_eq_getElem?_getD, reconRows]
      rw [List.getElem?_append_left (by simpa [h0] using hu)]
    have hrest : ∀ v u, (reconRows bpp above ((t, fs) :: rows)).getD ((v + 1) * bpl + u) 0 =
        (reconRows bpp (reconRow t bpp above fs) rows).getD (v * bpl + u) 0 := by
      intro v u
      have he : (v + 1) * bpl + u = bpl + (v * bpl + u) := by rw [Nat.succ_mul]; omega
      simp only [List.getD_eq_getElem?_getD, reconRows]
      rw [List.getElem?_append_right (by simp only [reconRow_length, h0, he]; omega), reconRow_length, h0, he,
        Nat.add_sub_cancel_left]
    cases y with
    | zero =>
      simp only [Nat.zero_mul, Nat.zero_add, List.getElem_cons_zero, if_true]
      rw [hfirst x hx, hfirst (x - bpp) (by omega)]
      exact reconRow_getD t hb above fs (by omega)
    | succ y =>
      have hy' : y < rows.length := by simpa using hy
      have h := ih (reconRow t bpp above fs) (fun r hr => hl r (List.mem_cons_of_mem _ hr)) hy'
      simp only [List.getElem_cons_succ, Nat.succ_ne_zero, if_false, Nat.add_sub_cancel, hrest] at h ⊢
      rw [h]
      have hup : ∀ u < bpl, (if y = 0 then (reconRow t bpp above fs).getD u 0
            else (reconRows bpp (reconRow t bpp above fs) rows).getD ((y - 1) * bpl + u) 0) =
          (reconRows bpp above ((t, fs) :: rows)).getD (y * bpl + u) 0 := by
        intro u hu
        split
        · next h => subst h; rw [Nat.zero_mul, Nat.zero_add, hfirst u hu]
        · next h =>
          obtain ⟨z, rfl⟩ := Nat.exists_eq_succ_of_ne_zero h
          rw [Nat.succ_eq_add_one, Nat.add_sub_cancel, hrest z u]
      rw [hup x hx, hup (x - bpp) (by omega)]

/-! ### Scanlines -/

/-- A tag byte names a filter type exactly when it is at most 4 (43_defilter.md R311). -/
theorem filterTypeOf_eq_none_iff (t : Byte) : filterTypeOf t = Option.none ↔ 4 < t.toNat := by
  revert t; decide

theorem filterTypeOf_isSome_iff (t : Byte) : (∃ f, filterTypeOf t = some f) ↔ t.toNat ≤ 4 := by
  rw [← Option.isSome_iff_exists, Option.isSome_iff_ne_none, ne_eq, filterTypeOf_eq_none_iff, Nat.not_lt]

/-- All that `readScanlines` can answer: the rows, with their tags and bytes, or the lowest row with a bad tag
(43_defilter.md R310, R320). -/
theorem readScanlines_cases (m : Memory) (src bpl y k : Nat) :
    (∃ rows, readScanlines m src bpl y k = .ok rows ∧ rows.length = k ∧
      ∀ i (h : i < rows.length),
        filterTypeOf (memByte m (src + (y + i) * (bpl + 1))) = some rows[i].1 ∧
        rows[i].2 = memRead m (src + (y + i) * (bpl + 1) + 1) bpl) ∨
    (∃ i, i < k ∧ readScanlines m src bpl y k = .error (y + i) ∧
      4 < (memByte m (src + (y + i) * (bpl + 1))).toNat ∧
      ∀ j < i, (memByte m (src + (y + j) * (bpl + 1))).toNat ≤ 4) := by
  induction k generalizing y with
  | zero => exact .inl ⟨[], rfl, rfl, fun i h => absurd h (by simp)⟩
  | succ k ih =>
    unfold readScanlines
    cases hf : filterTypeOf (memByte m (src + y * (bpl + 1))) with
    | none =>
      exact .inr ⟨0, by omega, rfl, (filterTypeOf_eq_none_iff _).mp (by simpa using hf), by omega⟩
    | some t =>
      rcases ih (y + 1) with ⟨rows, hr, hl, hrows⟩ | ⟨i, hi, hr, hbad, hgood⟩
      · refine .inl ⟨(t, memRead m (src + y * (bpl + 1) + 1) bpl) :: rows, by simp only [hr], by simp [hl], fun i h => ?_⟩
        cases i with
        | zero => exact ⟨hf, rfl⟩
        | succ i =>
          have := hrows i (by simpa using h)
          rw [show y + 1 + i = y + (i + 1) by omega] at this
          exact this
      · refine .inr ⟨i + 1, by omega, ?_, ?_, fun j hj => ?_⟩
        · simp only [hr]
          congr 1
          omega
        · rwa [show y + (i + 1) = y + 1 + i by omega]
        · cases j with
          | zero => exact (filterTypeOf_isSome_iff _).mp ⟨t, hf⟩
          | succ j =>
            rw [show y + (j + 1) = y + 1 + j by omega]
            exact hgood j (by omega)

/-! ### Command bodies -/

/-- All that `DEFILT` can answer once its header is known to be legal. -/
theorem defiltImage_cases (s : State) (sh : ImageShape) :
    (defiltImage s sh = .raise .truncatedImageData 1 ∧ s.arg1.toNat < sh.height * (bytesPerLine sh + 1)) ∨
    (defiltImage s sh = .raise .allocationFailed 2 ∧ s.arg3.toNat < sh.height * bytesPerLine sh) ∨
    (∃ y < sh.height, defiltImage s sh = .raise .invalidFilterType (BitVec.ofNat 32 y)) ∨
    (∃ rows, readScanlines s.mem s.arg0.toNat (bytesPerLine sh) 0 sh.height = .ok rows ∧
      sh.height * (bytesPerLine sh + 1) ≤ s.arg1.toNat ∧ sh.height * bytesPerLine sh ≤ s.arg3.toNat ∧
      defiltImage s sh =
        .ok { s with mem := memWrite s.mem s.arg2.toNat (reconRows (bytesPerPixel sh) [] rows) }) := by
  unfold defiltImage srcLen dstCap srcAddr dstAddr
  split
  · next h => exact .inl ⟨rfl, h⟩
  · next h1 =>
    split
    · next h => exact .inr (.inl ⟨rfl, h⟩)
    · next h2 =>
      rcases readScanlines_cases s.mem s.arg0.toNat (bytesPerLine sh) 0 sh.height with
        ⟨rows, hr, -⟩ | ⟨i, hi, hr, -⟩
      · exact .inr (.inr (.inr ⟨rows, hr, by omega, by omega, by rw [hr]⟩))
      · exact .inr (.inr (.inl ⟨0 + i, by omega, by rw [hr]⟩))

/-- All that the body of `DEFILT` can answer. -/
theorem defiltBody_cases (s : State) :
    (defiltBody s = .raise .badCommand 5 ∧ s.seq.state ≠ .idle ∧ s.seq.state ≠ .done) ∨
    (defiltBody s = .raise .invalidHeader 8 ∧ s.cfg.valid.hdr = false) ∨
    (defiltBody s = .raise .badAddress 1 ∧ s.params.memSize < s.arg0.toNat + s.arg1.toNat) ∨
    (defiltBody s = .raise .badAddress 3 ∧ s.params.memSize < s.arg2.toNat + s.arg3.toNat) ∨
    (defiltBody s = .stop .headerNotLegal ∧ s.cfg.valid.hdr = true ∧ imageShape s.cfg = none) ∨
    (∃ sh, imageShape s.cfg = some sh ∧ s.arg0.toNat + s.arg1.toNat ≤ s.params.memSize ∧
      s.arg2.toNat + s.arg3.toNat ≤ s.params.memSize ∧ defiltBody s = defiltImage s sh) := by
  unfold defiltBody srcAddr srcLen dstAddr dstCap
  split
  · next h => exact .inl ⟨rfl, by simpa [streamClosed] using h⟩
  · split
    · next h => exact .inr (.inl ⟨rfl, h⟩)
    · next hv =>
      split
      · next h => exact .inr (.inr (.inl ⟨rfl, (inMem_false_iff _ _ _).mp h⟩))
      · next h1 =>
        split
        · next h => exact .inr (.inr (.inr (.inl ⟨rfl, (inMem_false_iff _ _ _).mp h⟩)))
        · next h2 =>
          split
          · next h => exact .inr (.inr (.inr (.inr (.inl ⟨rfl, by simpa using hv, h⟩))))
          · next sh h =>
            exact .inr (.inr (.inr (.inr (.inr
              ⟨sh, h, by simpa [inMem] using h1, by simpa [inMem] using h2, rfl⟩))))

/-- All that the body of `FLT.BYTE` can answer. -/
theorem fltByteBody_cases (t : Byte) (s : State) :
    (4 < t.toNat ∧ fltByteBody t s = .raise .invalidFilterType 0) ∨
    (∃ ft, filterTypeOf t = some ft ∧ fltByteBody t s = .ok { s with
      result := (recon ft (lowByte s.arg0) (lowByte s.arg1) (lowByte s.arg2) (lowByte s.arg3)).zeroExtend 32 }) := by
  unfold fltByteBody
  split
  · next h => exact .inl ⟨(filterTypeOf_eq_none_iff _).mp h, rfl⟩
  · next ft h => exact .inr ⟨ft, h, rfl⟩

/-- All that the body of `SAMPLE` can answer. -/
theorem sampleBody_cases (d : Byte) (s : State) :
    (sampleDepthLegal d = false ∧ sampleBody d s = .raise .badCommand 3) ∨
    (s.params.memSize < s.arg0.toNat + s.arg1.toNat * d.toNat / 8 + 1 ∧ sampleBody d s = .raise .badAddress 1) ∨
    (sampleDepthLegal d = true ∧ s.arg0.toNat + s.arg1.toNat * d.toNat / 8 + 1 ≤ s.params.memSize ∧
      sampleBody d s = .ok { s with
        result := (extractSample s.mem s.arg0.toNat s.arg1.toNat d.toNat).zeroExtend 32 }) := by
  unfold sampleBody srcAddr srcLen
  split
  · next h => exact .inl ⟨h, rfl⟩
  · next h =>
    split
    · next hm => exact .inr (.inr ⟨by simpa using h, (inMem_iff _ _ _).mp hm, rfl⟩)
    · next hm => exact .inr (.inl ⟨(inMem_false_iff _ _ _).mp (by simpa using hm), rfl⟩)

/-- A sample's value: `d` bits of its byte, most significant samples first (43_defilter.md R315). -/
theorem extractSample_toNat (m : Memory) (r i d : Nat) (hd : d = 1 ∨ d = 2 ∨ d = 4 ∨ d = 8) :
    (extractSample m r i d).toNat =
      (memByte m (r + i * d / 8)).toNat / 2 ^ (8 - d - i * d % 8) % 2 ^ d := by
  have hmask : ∀ b : Byte, (b &&& BitVec.ofNat 8 (2 ^ d - 1)).toNat = b.toNat % 2 ^ d := by
    rcases hd with rfl | rfl | rfl | rfl <;> decide
  simp only [extractSample]
  rw [hmask, BitVec.toNat_ushiftRight, Nat.shiftRight_eq_div_pow]

/-- A sample is below `2 ^ d` (43_defilter.md R324). -/
theorem extractSample_lt (m : Memory) (r i d : Nat) (hd : d = 1 ∨ d = 2 ∨ d = 4 ∨ d = 8) :
    (extractSample m r i d).toNat < 2 ^ d := by
  rw [extractSample_toNat m r i d hd]
  exact Nat.mod_lt _ (by positivity)

end Sys2Proof.Machine
end

