-- ==== Sys2Proof/Laws/Convert.lean ====
section
/-! SUPPORT. The converted pixels: four bytes each, in row-major order (44_convert.md R352, R360), and what the body of CONV can answer. -/

namespace Sys2Proof.Machine

@[simp] theorem pixelAt_length (cfg : ImageConfig) (m : Memory) (sh : ImageShape) (row x : Nat) :
    (pixelAt cfg m sh row x).length = 4 := by
  unfold pixelAt
  split
  · unfold pixelGray
    split
    · rfl
    · split <;> rfl
  · unfold pixelRgb
    split <;> rfl
  · rfl
  · unfold pixelGrayAlpha
    split <;> rfl
  · unfold pixelRgba
    split <;> rfl

@[simp] theorem convPixels_length (cfg : ImageConfig) (m : Memory) (sh : ImageShape) (row x k : Nat) :
    (convPixels cfg m sh row x k).length = k * 4 := by
  induction k generalizing x with
  | zero => simp [convPixels]
  | succ k ih => rw [convPixels, List.length_append, pixelAt_length, ih]; omega

@[simp] theorem convRows_length (cfg : ImageConfig) (m : Memory) (sh : ImageShape) (src y k : Nat) :
    (convRows cfg m sh src y k).length = k * (sh.width * 4) := by
  induction k generalizing y with
  | zero => simp [convRows]
  | succ k ih => rw [convRows, List.length_append, convPixels_length, ih, Nat.succ_mul, Nat.add_comm]

/-- Byte `c` of pixel `x + j` of a row. -/
theorem convPixels_getD (cfg : ImageConfig) (m : Memory) (sh : ImageShape) (row x k : Nat) {j c : Nat} (hj : j < k)
    (hc : c < 4) :
    (convPixels cfg m sh row x k).getD (4 * j + c) 0 = (pixelAt cfg m sh row (x + j)).getD c 0 := by
  induction k generalizing x j with
  | zero => omega
  | succ k ih =>
    rw [convPixels]
    simp only [List.getD_eq_getElem?_getD] at ih ⊢
    cases j with
    | zero => rw [List.getElem?_append_left (by simp; omega)]; simp
    | succ j =>
      rw [List.getElem?_append_right (by simp; omega), pixelAt_length,
        show 4 * (j + 1) + c - 4 = 4 * j + c by omega, ih (x + 1) (by omega),
        show x + 1 + j = x + (j + 1) by omega]

/-- Byte `c` of pixel `x` of row `y + v`: the output is row-major, four bytes a pixel (44_convert.md R352). -/
theorem convRows_getD (cfg : ImageConfig) (m : Memory) (sh : ImageShape) (src y k : Nat) {v x c : Nat} (hv : v < k)
    (hx : x < sh.width) (hc : c < 4) :
    (convRows cfg m sh src y k).getD (4 * (v * sh.width + x) + c) 0 =
      (pixelAt cfg m sh (src + (y + v) * bytesPerLine sh) x).getD c 0 := by
  induction k generalizing y v with
  | zero => omega
  | succ k ih =>
    rw [convRows]
    cases v with
    | zero =>
      have := convPixels_getD cfg m sh (src + y * bytesPerLine sh) 0 sh.width hx hc
      simp only [List.getD_eq_getElem?_getD] at this ⊢
      rw [List.getElem?_append_left (by simp; omega)]
      simpa using this
    | succ v =>
      have := ih (y + 1) (v := v) (by omega)
      simp only [List.getD_eq_getElem?_getD] at this ⊢
      have he : 4 * ((v + 1) * sh.width + x) + c = sh.width * 4 + (4 * (v * sh.width + x) + c) := by
        rw [Nat.add_mul, Nat.one_mul]; omega
      rw [he, List.getElem?_append_right (by simp), convPixels_length, Nat.add_sub_cancel_left, this,
        show y + 1 + v = y + (v + 1) by omega]

/-- All that `CONV` can answer once its header is known to be legal. -/
theorem convImage_cases (s : State) (sh : ImageShape) :
    (convImage s sh = .raise .conversionFailed 1 ∧ s.arg1.toNat < sh.height * bytesPerLine sh) ∨
    (convImage s sh = .raise .conversionFailed 2 ∧ sh.mode = .palette ∧ s.cfg.valid.plte = false) ∨
    (convImage s sh = .raise .allocationFailed 3 ∧ s.arg3.toNat < sh.width * sh.height * 4) ∨
    (sh.height * bytesPerLine sh ≤ s.arg1.toNat ∧ sh.width * sh.height * 4 ≤ s.arg3.toNat ∧
      (sh.mode = .palette → s.cfg.valid.plte = true) ∧
      convImage s sh = .ok { s with
        mem := memWrite s.mem s.arg2.toNat (convRows s.cfg s.mem sh s.arg0.toNat 0 sh.height) }) := by
  unfold convImage srcLen dstCap srcAddr dstAddr
  split
  · next h => exact .inl ⟨rfl, h⟩
  · split
    · next h => exact .inr (.inl ⟨rfl, h⟩)
    · next hp =>
      split
      · next h => exact .inr (.inr (.inl ⟨rfl, h⟩))
      · exact .inr (.inr (.inr ⟨by omega, by omega, fun hm => by simpa [hm] using hp, rfl⟩))

/-- All that the body of `CONV` can answer. -/
theorem convBody_cases (s : State) :
    (convBody s = .raise .badCommand 5 ∧ s.seq.state ≠ .idle ∧ s.seq.state ≠ .done) ∨
    (convBody s = .raise .conversionFailed 3 ∧ s.cfg.valid.hdr = false) ∨
    (convBody s = .raise .badAddress 1 ∧ s.params.memSize < s.arg0.toNat + s.arg1.toNat) ∨
    (convBody s = .raise .badAddress 3 ∧ s.params.memSize < s.arg2.toNat + s.arg3.toNat) ∨
    (convBody s = .stop .headerNotLegal ∧ s.cfg.valid.hdr = true ∧ imageShape s.cfg = none) ∨
    (∃ sh, imageShape s.cfg = some sh ∧ s.arg0.toNat + s.arg1.toNat ≤ s.params.memSize ∧
      s.arg2.toNat + s.arg3.toNat ≤ s.params.memSize ∧ convBody s = convImage s sh) := by
  unfold convBody srcAddr srcLen dstAddr dstCap
  split
  · next h => exact .inl ⟨rfl, by simpa [streamClosed] using h⟩
  · split
    · next h => exact .inr (.inl ⟨rfl, h⟩)
    · next hv =>
      split
      · next h => exact .inr (.inr (.inl ⟨rfl, (inMem_false_iff _ _ _).mp h⟩))
      · next h1 =>
        split
        · next h => exact .inr (.inr (.inr (.inl ⟨rfl, (inMem_false_iff _ _ _).mp h⟩)))
        · next h2 =>
          split
          · next h => exact .inr (.inr (.inr (.inr (.inl ⟨rfl, by simpa using hv, h⟩))))
          · next sh h =>
            exact .inr (.inr (.inr (.inr (.inr
              ⟨sh, h, by simpa [inMem] using h1, by simpa [inMem] using h2, rfl⟩))))

end Sys2Proof.Machine
end

