-- ==== Sys2Proof/Laws/Crc.lean ====
section
/-! SUPPORT. The fold of the CRC over lists (40_crc.md R202), and what `CRC.MEM` can answer (R205). -/

namespace Sys2Proof.Machine

@[simp] theorem crcFold_nil (c : Word) : crcFold c [] = c := rfl
@[simp] theorem crcFold_cons (c : Word) (b : Byte) (bs : List Byte) :
    crcFold c (b :: bs) = crcFold (crcUpdate c b) bs := rfl

theorem crcFold_append (c : Word) (bs cs : List Byte) : crcFold c (bs ++ cs) = crcFold (crcFold c bs) cs := by
  simp [crcFold, List.foldl_append]

/-- All that the body of `CRC.MEM` can answer. -/
theorem crcMemBody_cases (s : State) :
    (s.arg0.toNat + s.arg1.toNat ≤ s.params.memSize ∧
      crcMemBody s = .ok { s with crcState := crcFold s.crcState (memRead s.mem s.arg0.toNat s.arg1.toNat) }) ∨
    (s.params.memSize < s.arg0.toNat + s.arg1.toNat ∧ crcMemBody s = .raise .badAddress 1) := by
  unfold crcMemBody srcAddr srcLen
  by_cases h : inMem s s.arg0.toNat s.arg1.toNat = true
  · exact .inl ⟨(inMem_iff _ _ _).mp h, by simp [h]⟩
  · exact .inr ⟨(inMem_false_iff _ _ _).mp (by simpa using h), by simp [h]⟩

end Sys2Proof.Machine
end

