-- ==== Sys2Proof/Laws/Loaders.lean ====
section
/-! SUPPORT. What each loader body can answer, said once (42_loaders.md R271, R275, R277, R279, R281). -/

namespace Sys2Proof.Machine

/-- The header checks pass exactly on a legal header (42_loaders.md R271, R272). -/
theorem headerCheck_eq_none {w h : Word} {f : HdrFmt} {il : Byte} :
    headerCheck w h f il = none ↔
      w ≠ 0 ∧ h ≠ 0 ∧ f.comp = 0 ∧ f.filt = 0 ∧ (il = 0 ∨ il = 1) ∧
        ∃ mode, colorModeOf f.color = some mode ∧ depthLegal mode f.depth.toNat = true := by
  unfold headerCheck
  simp only [Config.compressionCode, Config.filterMethodCode, Config.interlaceCodes, List.mem_cons, List.not_mem_nil,
    or_false]
  split
  · next hw => simp only [reduceCtorEq, false_iff]; tauto
  · next hw =>
    rw [not_or] at hw
    split
    · simp_all
    · split
      · simp_all
      · split
        · next hil => simp only [reduceCtorEq, false_iff]; tauto
        · split
          · simp_all
          · next mode hm =>
            split <;> simp_all
            tauto

/-- The sub-causes of a header check (60_exceptions.md R402). -/
theorem headerCheck_eq_some {w h : Word} {f : HdrFmt} {il : Byte} {info : Word}
    (hc : headerCheck w h f il = some info) : info ∈ [2, 3, 4, 5, 6, 7] := by
  unfold headerCheck at hc
  repeat' split at hc
  all_goals simp_all

/-- All that `header_load` can answer. -/
theorem headerLoad_cases (s : State) (a n : Nat) :
    (n = 13 ∧ headerCheck (be32 s.mem a) (be32 s.mem (a + 4)) (headerFmt s.mem a) (memByte s.mem (a + 12)) = none ∧
      headerLoad s a n = .ok { s with
        cfg := { ImageConfig.cleared with
          valid := ⟨true, false, false⟩, hdrWidth := be32 s.mem a, hdrHeight := be32 s.mem (a + 4)
          hdrFmt := headerFmt s.mem a, hdrIl := memByte s.mem (a + 12) } }) ∨
    ∃ info, info ∈ [1, 2, 3, 4, 5, 6, 7] ∧ headerLoad s a n = .raise .invalidHeader info := by
  unfold headerLoad
  simp only []
  split
  · exact .inr ⟨1, by simp, rfl⟩
  · next hn =>
    split
    · next info hi => exact .inr ⟨info, List.mem_cons_of_mem _ (headerCheck_eq_some hi), rfl⟩
    · next hi => exact .inl ⟨by simpa using hn, hi, rfl⟩

/-- All that `palette_load` can answer. -/
theorem paletteLoad_cases (s : State) (a n : Nat) :
    (s.cfg.valid.hdr = true ∧ s.cfg.hdrFmt.color = 3 ∧ n % 3 = 0 ∧ n ≤ 768 ∧
      paletteLoad s a n = .ok { s with
        cfg := { s.cfg with
          palette := tableOf ⟨0, 0, 0⟩ (paletteEntries s.mem a (n / 3)), plteCount := BitVec.ofNat 9 (n / 3)
          valid := { s.cfg.valid with plte := true } } }) ∨
    (s.cfg.valid.hdr = false ∧ paletteLoad s a n = .raise .outOfOrderChunk 7) ∨
    (s.cfg.valid.hdr = true ∧
      (paletteLoad s a n = .raise .outOfOrderChunk 4 ∨ paletteLoad s a n = .raise .invalidPalette 1 ∨
        paletteLoad s a n = .raise .invalidPalette 2)) := by
  unfold paletteLoad
  split
  · next h => exact .inr (.inl ⟨h, rfl⟩)
  · next h =>
    have hv : s.cfg.valid.hdr = true := by simpa using h
    split
    · exact .inr (.inr ⟨hv, .inl rfl⟩)
    · next hc =>
      split
      · exact .inr (.inr ⟨hv, .inr (.inl rfl)⟩)
      · next hn =>
        split
        · exact .inr (.inr ⟨hv, .inr (.inr rfl)⟩)
        · exact .inl ⟨hv, by simpa [Config.colorPalette] using hc, by omega, by omega, rfl⟩

/-- When and how `trns_load` writes: keys without alpha entries in the key modes, alpha entries without keys in Palette
mode (42_loaders.md R277). -/
structure TrnsLoaded (s t : State) (n : Nat) : Prop where
  hdr : s.cfg.valid.hdr = true
  loaded : ∃ k0 k1 k2 al, t = writeTransparency s k0 k1 k2 al ∧
    ((s.cfg.hdrFmt.color = 0 ∧ al = []) ∨ (s.cfg.hdrFmt.color = 2 ∧ al = []) ∨
      (s.cfg.hdrFmt.color = 3 ∧ al.length = n ∧ 1 ≤ n ∧ n ≤ 256))

/-- All that `trns_load` can answer. -/
theorem trnsLoad_cases (s : State) (a n : Nat) :
    (∃ t, trnsLoad s a n = .ok t ∧ TrnsLoaded s t n) ∨
    (s.cfg.valid.hdr = false ∧ trnsLoad s a n = .raise .outOfOrderChunk 7) ∨
    (s.cfg.valid.hdr = true ∧
      (trnsLoad s a n = .raise .invalidTransparency 1 ∨ trnsLoad s a n = .raise .invalidTransparency 2 ∨
        trnsLoad s a n = .raise .invalidTransparency 3)) ∨
    (s.cfg.valid.hdr = true ∧ colorModeOf s.cfg.hdrFmt.color = none ∧ trnsLoad s a n = .stop .headerNotLegal) := by
  unfold trnsLoad
  split
  · next h => exact .inr (.inl ⟨h, rfl⟩)
  · next h =>
    have hv : s.cfg.valid.hdr = true := by simpa using h
    split
    · next hm => exact .inr (.inr (.inr ⟨hv, hm, rfl⟩))
    · exact .inr (.inr (.inl ⟨hv, .inl rfl⟩))
    · exact .inr (.inr (.inl ⟨hv, .inl rfl⟩))
    · next hm =>
      have hc : s.cfg.hdrFmt.color = 0 := by simpa using (colorModeOf_eq_some_iff _ _).mp hm
      split
      · exact .inr (.inr (.inl ⟨hv, .inr (.inl rfl)⟩))
      · exact .inl ⟨_, rfl, hv, _, _, _, _, rfl, .inl ⟨hc, rfl⟩⟩
    · next hm =>
      have hc : s.cfg.hdrFmt.color = 2 := by simpa using (colorModeOf_eq_some_iff _ _).mp hm
      split
      · exact .inr (.inr (.inl ⟨hv, .inr (.inl rfl)⟩))
      · exact .inl ⟨_, rfl, hv, _, _, _, _, rfl, .inr (.inl ⟨hc, rfl⟩)⟩
    · next hm =>
      have hc : s.cfg.hdrFmt.color = 3 := by simpa using (colorModeOf_eq_some_iff _ _).mp hm
      split
      · exact .inr (.inr (.inl ⟨hv, .inr (.inl rfl)⟩))
      · split
        · exact .inr (.inr (.inl ⟨hv, .inr (.inr rfl)⟩))
        · exact .inl ⟨_, rfl, hv, _, _, _, _, rfl, .inr (.inr ⟨hc, by simp, by omega, by omega⟩)⟩

/-- All that `zb_append` can answer. -/
theorem zbAppend_cases (s : State) (a n : Nat) :
    (s.zbBase.toNat + s.zbCap.toNat ≤ s.params.memSize ∧ s.zbLen.toNat + n ≤ s.zbCap.toNat ∧
      zbAppend s a n = .ok { s with
        mem := memWrite s.mem (s.zbBase.toNat + s.zbLen.toNat) (memRead s.mem a n)
        zbLen := BitVec.ofNat 32 (s.zbLen.toNat + n) }) ∨
    zbAppend s a n = .raise .badAddress 2 ∨ zbAppend s a n = .raise .allocationFailed 1 := by
  unfold zbAppend
  split
  · exact .inr (.inl rfl)
  · next h =>
    split
    · exact .inr (.inr rfl)
    · exact .inl ⟨by simpa [inMem] using h, by omega, rfl⟩

/-- All that a loader command can answer, from its body (42_loaders.md R270, R274, R276, R278). -/
theorem onPayload_cases (body : State → Nat → Nat → Res State) (s : State) :
    (s.params.memSize < s.arg0.toNat + s.arg1.toNat ∧ onPayload body s = .raise .badAddress 1) ∨
    (s.arg0.toNat + s.arg1.toNat ≤ s.params.memSize ∧ onPayload body s = body s s.arg0.toNat s.arg1.toNat) := by
  unfold onPayload srcAddr srcLen
  by_cases h : inMem s s.arg0.toNat s.arg1.toNat = true
  · exact .inr ⟨(inMem_iff _ _ _).mp h, by simp [h]⟩
  · exact .inl ⟨(inMem_false_iff _ _ _).mp (by simpa using h), by simp [h]⟩

@[simp] theorem paletteEntries_length (m : Memory) (a k : Nat) : (paletteEntries m a k).length = k := by
  induction k generalizing a with
  | zero => rfl
  | succ k ih => simp [paletteEntries, ih]

/-- Entry `i` of a palette payload is its `i`-th 3-byte group (42_loaders.md R275). -/
theorem paletteEntries_getElem (m : Memory) (a k : Nat) {i : Nat} (h : i < (paletteEntries m a k).length) :
    (paletteEntries m a k)[i] = ⟨memByte m (a + 3 * i), memByte m (a + 3 * i + 1), memByte m (a + 3 * i + 2)⟩ := by
  induction k generalizing a i with
  | zero => simp [paletteEntries] at h
  | succ k ih =>
    cases i with
    | zero => simp [paletteEntries]
    | succ i =>
      simp only [paletteEntries, List.getElem_cons_succ]
      rw [ih (a + 3) (by simpa [paletteEntries] using h)]
      simp only [show a + 3 + 3 * i = a + 3 * (i + 1) by omega]

end Sys2Proof.Machine
end

