-- ==== Sys2Proof/Laws/Framer.lean ====
section
/-! SUPPORT. What each part of the framer can answer, said once (41_framer.md R232 to R239). -/

namespace Sys2Proof.Machine

theorem streamInMem_iff (s : State) : streamInMem s = true ↔ s.inEnd.toNat ≤ s.params.memSize := by
  simp [streamInMem, inMem]

/-- All that the body of `FR.START` can answer. -/
theorem frStartBody_cases (s : State) :
    (s.arg0.toNat + s.arg1.toNat ≤ s.params.memSize ∧
      frStartBody s = .ok (openStream s s.arg0.toNat s.arg1.toNat)) ∨
    (s.params.memSize < s.arg0.toNat + s.arg1.toNat ∧ frStartBody s = .raise .badAddress 1) := by
  unfold frStartBody srcAddr srcLen
  by_cases h : inMem s s.arg0.toNat s.arg1.toNat = true
  · exact .inl ⟨(inMem_iff _ _ _).mp h, by simp [h]⟩
  · exact .inr ⟨(inMem_false_iff _ _ _).mp (by simpa using h), by simp [h]⟩

/-- All that the body of `FR.SIG` can answer. -/
theorem frSigBody_cases (s : State) :
    (s.params.memSize < s.inEnd.toNat ∧ frSigBody s = .stop .streamOutsideMemory) ∨
    (s.inEnd.toNat ≤ s.params.memSize ∧ s.inPtr.toNat + 8 ≤ s.inEnd.toNat ∧
      frSigBody s = .ok { s with
        inPtr := BitVec.ofNat 32 (s.inPtr.toNat + 8), seq := { s.seq with state := .expectIhdr } }) ∨
    frSigBody s = .raise .signatureMismatch 1 ∨ frSigBody s = .raise .signatureMismatch 2 := by
  unfold frSigBody
  split
  · next h => exact .inl ⟨by simpa [streamInMem, inMem] using h, rfl⟩
  · next h =>
    have hm : s.inEnd.toNat ≤ s.params.memSize := by simpa [streamInMem, inMem] using h
    split
    · exact .inr (.inr (.inl rfl))
    · split
      · exact .inr (.inr (.inr rfl))
      · exact .inr (.inl ⟨hm, by omega, rfl⟩)

/-- The framing checks pass exactly when the chunk fits (41_framer.md R234). -/
theorem frameCheck_eq_none {s : State} {p : Nat} :
    frameCheck s p = none ↔
      (be32 s.mem p).toNat ≤ 104857600 ∧ p + 12 + (be32 s.mem p).toNat ≤ s.inEnd.toNat := by
  unfold frameCheck Config.maxChunkLen
  split
  · simp only [reduceCtorEq, false_iff, not_and]; omega
  · split
    · simp only [reduceCtorEq, false_iff, not_and]; omega
    · split
      · simp only [reduceCtorEq, false_iff, not_and]; omega
      · simp only [true_iff]; omega

theorem frameCheck_eq_some {s : State} {p : Nat} {info : Word} (h : frameCheck s p = some info) :
    info = 1 ∨ info = 2 := by
  unfold frameCheck at h
  repeat' split at h
  all_goals simp_all

theorem checkOrder_eq_some {q : Seq} {cls : ChunkClass} {info : Word} (h : checkOrder q cls = some info) :
    info ∈ [1, 2, 3, 5] := by
  unfold checkOrder at h
  repeat' split at h
  all_goals simp_all

/-- A chunk that passes the order check in EXPECT_IHDR is a header (41_framer.md R236). -/
theorem checkOrder_expectIhdr {q : Seq} {cls : ChunkClass} (hq : q.state = .expectIhdr)
    (h : checkOrder q cls = none) : cls = .header := by
  unfold checkOrder at h
  by_contra hc
  simp [hq, hc] at h

/-- A chunk that passes the order check in BODY (41_framer.md R236). -/
theorem checkOrder_body {q : Seq} {cls : ChunkClass} (hq : q.state = .body) (h : checkOrder q cls = none) :
    cls ≠ .header ∧ (cls = .palette → q.seenPlte = false) ∧ (cls = .transparency → q.seenTrns = false) ∧
      (cls = .endMarker → q.seenIdat = true) := by
  unfold checkOrder at h
  cases cls <;> simp_all

theorem classify_ne_noneYet (tag : Word) : classify tag ≠ .noneYet := by
  unfold classify
  repeat' split
  all_goals simp

/-- All that `FR.CHUNK` can answer in EXPECT_IHDR and BODY, up to the loader. -/
theorem frChunkOpen_cases (s : State) :
    (s.params.memSize < s.inEnd.toNat ∧ frChunkOpen s = .fault .streamOutsideMemory) ∨
    (s.inEnd.toNat ≤ s.params.memSize ∧
      ((∃ info, (info = 1 ∨ info = 2) ∧ frChunkOpen s = .next (failStream s .truncatedOrCorrupt info)) ∨
      ((be32 s.mem s.inPtr.toNat).toNat ≤ 104857600 ∧
        s.inPtr.toNat + 12 + (be32 s.mem s.inPtr.toNat).toNat ≤ s.inEnd.toNat ∧
        frChunkOpen s =
          (let p := s.inPtr.toNat
           let len := (be32 s.mem p).toNat
           let s1 := { s with chunkCrcCalc := crc32 (chunkBytes s p len) }
           finishFramer s1 (frCheckCrc s1 p len (be32 s.mem (p + 4)) (be32 s.mem (p + 8 + len))))))) := by
  unfold frChunkOpen
  split
  · next h => exact .inl ⟨by simpa [streamInMem, inMem] using h, rfl⟩
  · next h =>
    refine .inr ⟨by simpa [streamInMem, inMem] using h, ?_⟩
    split
    · next info hi => exact .inl ⟨info, frameCheck_eq_some hi, rfl⟩
    · next hi =>
      obtain ⟨h1, h2⟩ := frameCheck_eq_none.mp hi
      exact .inr ⟨h1, h2, rfl⟩

/-- All that a framed chunk can answer: a wrong CRC, a wrong place, or its loader's answer (41_framer.md R234). -/
theorem frCheckCrc_cases (s : State) (p len : Nat) (tag stored : Word) :
    (s.chunkCrcCalc ≠ stored ∧ frCheckCrc s p len tag stored = .raise .truncatedOrCorrupt 3) ∨
    (s.chunkCrcCalc = stored ∧ ∃ info, checkOrder s.seq (classify tag) = some info ∧
      frCheckCrc s p len tag stored = .raise .outOfOrderChunk info) ∨
    (s.chunkCrcCalc = stored ∧ checkOrder s.seq (classify tag) = none ∧
      ((∃ t, dispatchChunk (classify tag) s (p + 8) len = .ok t ∧
          frCheckCrc s p len tag stored = .ok (acceptChunk t p len tag stored (classify tag))) ∨
        (∃ e info, dispatchChunk (classify tag) s (p + 8) len = .raise e info ∧
          frCheckCrc s p len tag stored = .raise e info) ∨
        (∃ f, dispatchChunk (classify tag) s (p + 8) len = .stop f ∧ frCheckCrc s p len tag stored = .stop f))) := by
  unfold frCheckCrc
  split
  · next h => exact .inl ⟨h, rfl⟩
  · next h =>
    rw [not_not] at h
    unfold frAccept
    split
    · next info hi => exact .inr (.inl ⟨h, info, hi, rfl⟩)
    · next hi =>
      refine .inr (.inr ⟨h, hi, ?_⟩)
      split
      · next t ht => exact .inl ⟨t, ht, rfl⟩
      · next e info hr => exact .inr (.inl ⟨e, info, hr, rfl⟩)
      · next f hf => exact .inr (.inr ⟨f, hf, rfl⟩)

end Sys2Proof.Machine
end

