-- ==== Sys2Proof/Laws/PerInstr.lean ====
section
/-! SUPPORT. The per-instruction family EncodingRow: the fields of a command's word, and its row's mask and match (30_encoding.md R140, R144). -/

namespace Sys2Proof.Laws

/-- The fields of any command word (30_encoding.md R140). -/
theorem encode_fields (i : Instr) :
    wordOp (encode i) = opcodeOf i ∧ wordImm (encode i) = immediateOf i ∧ wordRsv (encode i) = 0 := by
  simp only [wordOp, wordImm, wordRsv, encode]
  generalize immediateOf i = imm
  generalize opcodeOf i = op
  refine ⟨?_, ?_, ?_⟩
  · ext k hk
    rw [BitVec.getElem_extractLsb', Nat.zero_add, BitVec.getLsbD_append, if_pos hk, BitVec.getLsbD_eq_getElem hk]
  · ext k hk
    simp only [BitVec.getElem_extractLsb']
    rw [BitVec.getLsbD_append, if_neg (by omega), show 8 + k - 8 = k by omega, BitVec.getLsbD_append, if_pos hk]
    simp [BitVec.getLsbD_eq_getElem hk]
  · ext k hk
    simp only [BitVec.getElem_extractLsb']
    rw [BitVec.getLsbD_append, if_neg (by omega), BitVec.getLsbD_append, if_neg (by omega)]
    simp

/-- A command's word matches its row of the opcode map, and its fields are the row's (30_encoding.md R140, R144). -/
def EncodingRow.Statement (i : Instr) : Prop :=
  encode i &&& maskOf i = matchOf i ∧
    wordOp (encode i) = opcodeOf i ∧ wordImm (encode i) = immediateOf i ∧ wordRsv (encode i) = 0

theorem EncodingRow.nop : EncodingRow.Statement .nop := ⟨by decide, encode_fields _⟩
theorem EncodingRow.sreset : EncodingRow.Statement .sreset := ⟨by decide, encode_fields _⟩
theorem EncodingRow.crcInit : EncodingRow.Statement .crcInit := ⟨by decide, encode_fields _⟩
theorem EncodingRow.crcByte (b : Byte) : EncodingRow.Statement (.crcByte b) :=
  ⟨by revert b; decide, encode_fields _⟩
theorem EncodingRow.crcMem : EncodingRow.Statement .crcMem := ⟨by decide, encode_fields _⟩
theorem EncodingRow.crcFinal : EncodingRow.Statement .crcFinal := ⟨by decide, encode_fields _⟩
theorem EncodingRow.frStart : EncodingRow.Statement .frStart := ⟨by decide, encode_fields _⟩
theorem EncodingRow.frSig : EncodingRow.Statement .frSig := ⟨by decide, encode_fields _⟩
theorem EncodingRow.frChunk : EncodingRow.Statement .frChunk := ⟨by decide, encode_fields _⟩
theorem EncodingRow.ldHdr : EncodingRow.Statement .ldHdr := ⟨by decide, encode_fields _⟩
theorem EncodingRow.ldPlte : EncodingRow.Statement .ldPlte := ⟨by decide, encode_fields _⟩
theorem EncodingRow.ldTrns : EncodingRow.Statement .ldTrns := ⟨by decide, encode_fields _⟩
theorem EncodingRow.zbAppend : EncodingRow.Statement .zbAppend := ⟨by decide, encode_fields _⟩
theorem EncodingRow.defilt : EncodingRow.Statement .defilt := ⟨by decide, encode_fields _⟩
theorem EncodingRow.fltByte (t : Byte) : EncodingRow.Statement (.fltByte t) :=
  ⟨by revert t; decide, encode_fields _⟩
theorem EncodingRow.sample (d : Byte) : EncodingRow.Statement (.sample d) :=
  ⟨by revert d; decide, encode_fields _⟩
theorem EncodingRow.conv : EncodingRow.Statement .conv := ⟨by decide, encode_fields _⟩

end Sys2Proof.Laws
end

