-- ==== Sys2Proof/Laws/Step.lean ====
section
/-! SUPPORT. What one step can be: an idle engine, a word that is no command, a command, or a host action (70_reset_and_hazards.md R460). -/

namespace Sys2Proof.Machine

/-- All that the engine's step can do. -/
theorem engineStep_cases {s t : State} (h : engineStep s = .next t) :
    (s.latch = none ∧ t = s) ∨
    (∃ w e, s.latch = some w ∧ decode w = .error e ∧ t = raiseError s .badCommand (badCommandCause e)) ∨
    (∃ w i, s.latch = some w ∧ decode w = .ok i ∧ exec i s = .next t) := by
  unfold engineStep at h
  split at h
  · next hl => exact .inl ⟨hl, by simpa using h.symm⟩
  · next w hl =>
    split at h
    · next e hd => exact .inr (.inl ⟨w, e, hl, hd, by simpa [finish] using h.symm⟩)
    · next i hd => exact .inr (.inr ⟨w, i, hl, hd, h⟩)

/-- All that a step can do: the engine moves, or the host does, from the state with its turn taken off the schedule. -/
theorem step_cases {s t : State} (h : step s = .next t) :
    (s.turns = [] ∧ engineStep s = .next t) ∨
    (∃ ts, s.turns = .engine :: ts ∧ engineStep { s with turns := ts } = .next t) ∨
    (∃ a ts, s.turns = .host a :: ts ∧ hostStep a { s with turns := ts } = .next t) := by
  unfold step at h
  split at h
  · next ht => exact .inl ⟨ht, h⟩
  · next ts ht => exact .inr (.inl ⟨ts, ht, h⟩)
  · next a ts ht => exact .inr (.inr ⟨a, ts, ht, h⟩)

/-- The accesses the window gives a meaning (10_state.md R32). -/
theorem windowOffset_eq_ok_iff (s : State) (addr width off : Nat) :
    windowOffset s addr width = .ok off ↔
      addr = s.params.regBase + off ∧ off < 0x1000 ∧ off % 4 = 0 ∧ width = 4 := by
  unfold windowOffset
  split
  · simp only [reduceCtorEq, false_iff]; omega
  · split
    · simp only [reduceCtorEq, false_iff]; omega
    · simp only [Except.ok.injEq]; omega

/-- All that a host action can do when it has a meaning. -/
theorem hostStep_cases {a : HostAction} {s t : State} (h : hostStep a s = .next t) :
    (∃ off, a = .readReg (s.params.regBase + off) 4 ∧ off < 0x1000 ∧ off % 4 = 0 ∧
      (s.status.busy = true → readableWhileBusy (regAt off) = true) ∧
      ((regAt off = none ∧ t = { s with readData := some 0 }) ∨
        ∃ r, regAt off = some r ∧ t = { s with readData := some (readReg s r) })) ∨
    (∃ off v, a = .writeReg (s.params.regBase + off) 4 v ∧ off < 0x1000 ∧ off % 4 = 0 ∧
      (s.status.busy = true → writableWhileBusy (regAt off) = true) ∧
      ((regAt off = none ∧ t = s) ∨ ∃ r, regAt off = some r ∧ t = writeReg s r v)) ∨
    (∃ addr, a = .readMem addr ∧ s.status.busy = false ∧ addr < s.params.memSize ∧
      t = { s with readData := some ((memByte s.mem addr).zeroExtend 32) }) ∨
    (∃ addr b, a = .writeMem addr b ∧ s.status.busy = false ∧ addr < s.params.memSize ∧
      t = { s with mem := setByte s.mem addr b }) ∨
    (a = .hardwareReset ∧ t = resetRegisters s) := by
  cases a with
  | readReg addr width =>
    left
    simp only [hostStep, hostReadReg] at h
    split at h
    · simp at h
    · next off hoff =>
      obtain ⟨rfl, h1, h2, rfl⟩ := (windowOffset_eq_ok_iff _ _ _ _).mp hoff
      split at h
      · simp at h
      · next hb =>
        refine ⟨off, rfl, h1, h2, by simpa using hb, ?_⟩
        split at h
        · next hr => exact .inl ⟨hr, by simpa using h.symm⟩
        · next r hr => exact .inr ⟨r, hr, by simpa using h.symm⟩
  | writeReg addr width v =>
    right; left
    simp only [hostStep, hostWriteReg] at h
    split at h
    · simp at h
    · next off hoff =>
      obtain ⟨rfl, h1, h2, rfl⟩ := (windowOffset_eq_ok_iff _ _ _ _).mp hoff
      split at h
      · simp at h
      · next hb =>
        refine ⟨off, v, rfl, h1, h2, by simpa using hb, ?_⟩
        split at h
        · next hr => exact .inl ⟨hr, by simpa using h.symm⟩
        · next r hr => exact .inr ⟨r, hr, by simpa using h.symm⟩
  | readMem addr =>
    simp only [hostStep, hostReadMem] at h
    split at h
    · simp at h
    · next hb =>
      split at h
      · next hm =>
        exact .inr (.inr (.inl ⟨addr, rfl, by simpa using hb, by simpa [inMem] using hm, by simpa using h.symm⟩))
      · simp at h
  | writeMem addr b =>
    simp only [hostStep, hostWriteMem] at h
    split at h
    · simp at h
    · next hb =>
      split at h
      · next hm =>
        exact .inr (.inr (.inr (.inl
          ⟨addr, b, rfl, by simpa using hb, by simpa [inMem] using hm, by simpa using h.symm⟩)))
      · simp at h
  | hardwareReset => exact .inr (.inr (.inr (.inr ⟨rfl, by simpa [hostStep] using h.symm⟩)))

/-- The window's offset of each register (10_state.md R32). -/
def offsetOf : Reg → Nat
  | .id => 0x000
  | .ctrl => 0x004
  | .status => 0x008
  | .cmd => 0x00C
  | .arg0 => 0x010
  | .arg1 => 0x014
  | .arg2 => 0x018
  | .arg3 => 0x01C
  | .errInfo => 0x020
  | .result => 0x024
  | .crcState => 0x030
  | .crcOut => 0x034
  | .inPtr => 0x040
  | .inEnd => 0x044
  | .seq => 0x048
  | .chunkLen => 0x050
  | .chunkTag => 0x054
  | .chunkCrc => 0x058
  | .chunkCrcCalc => 0x05C
  | .chunkClass => 0x060
  | .chunkPayload => 0x064
  | .zbBase => 0x070
  | .zbCap => 0x074
  | .zbLen => 0x078
  | .cfgValid => 0x080
  | .hdrWidth => 0x084
  | .hdrHeight => 0x088
  | .hdrFmt => 0x08C
  | .hdrIl => 0x090
  | .plteCount => 0x094
  | .trnsCount => 0x098
  | .trnsKey0 => 0x09C
  | .trnsKey1 => 0x0A0
  | .trnsKey2 => 0x0A4
  | .palette i => 0x400 + 4 * i.toNat
  | .alpha i => 0x800 + 4 * i.toNat

/-- The window's layout is one to one: a register stands at its offset and nowhere else (10_state.md R32). -/
theorem regAt_eq_some_iff (off : Nat) (r : Reg) : regAt off = some r ↔ off = offsetOf r := by
  constructor
  · intro h
    unfold regAt at h
    split at h
    all_goals first | (obtain rfl := Option.some.inj h; rfl) | skip
    split at h
    · simp at h
    · split at h
      · obtain rfl := Option.some.inj h
        simp only [offsetOf, BitVec.toNat_ofNat]
        omega
      · split at h
        · obtain rfl := Option.some.inj h
          simp only [offsetOf, BitVec.toNat_ofNat]
          omega
        · simp at h
  · rintro rfl
    cases r with
    | palette i => revert i; decide
    | alpha i => revert i; decide
    | _ => rfl

/-- No register at an offset that is no register's (10_state.md R32). -/
theorem regAt_eq_none_iff (off : Nat) : regAt off = none ↔ ∀ r, off ≠ offsetOf r := by
  rw [Option.eq_none_iff_forall_not_mem]
  exact forall_congr' fun r => not_congr (by rw [Option.mem_def, regAt_eq_some_iff])

/-- Reading a register looks at the block only, not at the schedule or at what was read before. -/
theorem readReg_hostSide (s : State) (ts : List Turn) (d : Option Word) (r : Reg) :
    readReg { s with turns := ts, readData := d } r = readReg s r := by
  cases r <;> rfl

end Sys2Proof.Machine
end

