-- ==== Sys2Proof/Tests/Slice0.lean ====
section
/-! SUPPORT. The model's tests: the well-formedness smoke, every command's word decoded, one step per command with the results of 95_test_vectors.md (section named at each), and for every statement with hypotheses a concrete state that meets them. CRC values not in 95_test_vectors.md were computed outside the model with a CRC-32 library. -/

namespace Sys2Proof.Tests

open Sys2Proof.Machine

-- One declaration at a time: the package compiles with large thread stacks, and many theorems at once run out of them.
set_option Elab.async false

/-! ### Well-formedness and decoding -/

theorem test_wf_refuses_sample_depth_3 : Instr.wellFormed (.sample 3) = false := by decide
theorem test_wf_refuses_sample_depth_0 : Instr.wellFormed (.sample 0) = false := by decide
theorem test_wf_refuses_sample_depth_16 : Instr.wellFormed (.sample 16) = false := by decide
theorem test_wf_takes_sample_depths : ∀ d ∈ [1, 2, 4, 8], Instr.wellFormed (.sample d) = true := by decide

/-- `RSV = 0`, `IMM`, `OP` bit by bit from 30_encoding.md R140 and R144. -/
theorem test_decode_nop : decode 0b0000000000000000_00000000_00000000 = .ok .nop := by decide
theorem test_decode_sreset : decode 0b0000000000000000_00000000_00000001 = .ok .sreset := by decide
theorem test_decode_crcInit : decode 0b0000000000000000_00000000_00010000 = .ok .crcInit := by decide
theorem test_decode_crcByte : decode 0b0000000000000000_01100001_00010001 = .ok (.crcByte 0x61) := by decide
theorem test_decode_crcMem : decode 0b0000000000000000_00000000_00010010 = .ok .crcMem := by decide
theorem test_decode_crcFinal : decode 0b0000000000000000_00000000_00010011 = .ok .crcFinal := by decide
theorem test_decode_frStart : decode 0b0000000000000000_00000000_00100000 = .ok .frStart := by decide
theorem test_decode_frSig : decode 0b0000000000000000_00000000_00100001 = .ok .frSig := by decide
theorem test_decode_frChunk : decode 0b0000000000000000_00000000_00100010 = .ok .frChunk := by decide
theorem test_decode_ldHdr : decode 0b0000000000000000_00000000_00110000 = .ok .ldHdr := by decide
theorem test_decode_ldPlte : decode 0b0000000000000000_00000000_00110001 = .ok .ldPlte := by decide
theorem test_decode_ldTrns : decode 0b0000000000000000_00000000_00110010 = .ok .ldTrns := by decide
theorem test_decode_zbAppend : decode 0b0000000000000000_00000000_00110011 = .ok .zbAppend := by decide
theorem test_decode_defilt : decode 0b0000000000000000_00000000_01000000 = .ok .defilt := by decide
theorem test_decode_fltByte : decode 0b0000000000000000_00000101_01000001 = .ok (.fltByte 5) := by decide
theorem test_decode_sample : decode 0b0000000000000000_00000100_01000010 = .ok (.sample 4) := by decide
theorem test_decode_conv : decode 0b0000000000000000_00000000_01010000 = .ok .conv := by decide
theorem test_decode_reserved : decode 0x80000000 = .error .reservedBits := by decide
theorem test_decode_unassigned : decode 0x00000051 = .error .unassignedOpcode := by decide
theorem test_decode_immediate : decode 0x00000110 = .error .unusedImmediate := by decide

/-! ### Small states -/

/-- The reset state with a memory and the four arguments. -/
def withArgs (m : Memory) (a0 a1 a2 a3 : Word) : State :=
  { State.reset with mem := m, arg0 := a0, arg1 := a1, arg2 := a2, arg3 := a3 }

/-- A configuration with only a header. -/
def headerCfg (w h : Word) (depth color : Byte) : ImageConfig :=
  { ImageConfig.cleared with
    valid := ⟨true, false, false⟩, hdrWidth := w, hdrHeight := h, hdrFmt := ⟨depth, color, 0, 0⟩ }

/-- The two-entry palette header of program P3 (95_test_vectors.md). -/
def paletteCfg : ImageConfig :=
  { headerCfg 2 1 1 3 with
    valid := ⟨true, true, false⟩, plteCount := 2, palette := tableOf ⟨0, 0, 0⟩ [⟨0x11, 0x22, 0x33⟩, ⟨0x44, 0x55, 0x66⟩] }

/-- The configuration of program P3 after its loaders. -/
def alphaCfg : ImageConfig :=
  { paletteCfg with valid := ⟨true, true, true⟩, trnsCount := 2, alpha := tableOf 0 [0x00, 0xFF] }

/-- The stream `bs` at 0x1000, with the framer at its first byte in state `q`. -/
def streamState (q : SeqState) (bs : List Byte) : State :=
  { State.reset with
    mem := memWrite [] 0x1000 bs, inPtr := 0x1000, inEnd := BitVec.ofNat 32 (0x1000 + bs.length)
    seq := ⟨q, false, false, false⟩, zbBase := 0x2000, zbCap := 0x100, cfg := headerCfg 2 2 8 0 }

/-- The signature and what stands for a well-formed chunk of each tag: length, tag, payload, CRC. -/
def sigBytes : List Byte := [0x89, 0x50, 0x4E, 0x47, 0x0D, 0x0A, 0x1A, 0x0A]
/-- The IHDR chunk of program P2. -/
def ihdrChunk : List Byte :=
  [0, 0, 0, 13, 0x49, 0x48, 0x44, 0x52, 0, 0, 0, 2, 0, 0, 0, 2, 8, 0, 0, 0, 0, 0x57, 0xDD, 0x52, 0xF8]
/-- The IDAT chunk of program P2. -/
def idatChunk : List Byte :=
  [0, 0, 0, 14, 0x49, 0x44, 0x41, 0x54, 0x78, 0xDA, 0x63, 0xE0, 0x12, 0x61, 0x90, 0xD3, 0, 0, 0, 0xEC, 0, 0x65,
    0xFD, 0x90, 0x12, 0xA5]
/-- The IEND chunk. -/
def iendChunk : List Byte := [0, 0, 0, 0, 0x49, 0x45, 0x4E, 0x44, 0xAE, 0x42, 0x60, 0x82]
/-- A PLTE chunk with one entry. -/
def plteChunk : List Byte := [0, 0, 0, 3, 0x50, 0x4C, 0x54, 0x45, 0x11, 0x22, 0x33, 0xA2, 0xFC, 0xD3, 0xAB]
/-- A tRNS chunk with a Gray key. -/
def trnsChunk : List Byte := [0, 0, 0, 2, 0x74, 0x52, 0x4E, 0x53, 0, 1, 0x01, 0x94, 0xFD, 0xAE]
/-- A chunk with a tag of no interest. -/
def textChunk : List Byte := [0, 0, 0, 2, 0x74, 0x65, 0x58, 0x74, 0x61, 0x62, 0xF2, 0xB8, 0xAB, 0x1A]

/-- Accepting the word `w` from the host and stepping once ends in a state with `p`. -/
def runs (w : Nat) (s : State) (p : State → Bool) : Bool :=
  match step (s.withFetchWord 32 w) with
  | .next t => p t
  | .fault _ => false
  | .refused _ => false

/-- Running one step from `s` ends in a state with `p`. -/
def steps (s : State) (p : State → Bool) : Bool :=
  match step s with
  | .next t => p t
  | .fault _ => false
  | .refused _ => false

/-! ### One step of each command -/

/-- Section 2.7: `NOP` after an error. -/
theorem test_nop_clears_error :
    runs 0x0 { State.reset with status := ⟨false, true, true, false, 12⟩, errInfo := 5 }
      (fun t => readReg t .status = 0x2 ∧ t.errInfo = 0) = true := by decide

/-- Section 2.7: `SRESET` with an open stream, a header and interrupts enabled. -/
theorem test_sreset_keeps_ctrl :
    runs 0x1 { streamState .body [] with ctrl := ⟨true⟩, crcState := 5 }
      (fun t => readReg t .status = 0x2 ∧ readReg t .seq = 0 ∧ readReg t .cfgValid = 0 ∧ t.crcState = 0xFFFFFFFF ∧
        readReg t .ctrl = 1 ∧ t.irq = true) = true := by decide

/-- Section 2.1. -/
theorem test_crcInit : runs 0x10 { State.reset with crcState := 0x12345678 } (fun t => t.crcState = 0xFFFFFFFF) = true := by
  decide

/-- Section 2.1: the byte "a". -/
theorem test_crcByte_a : runs 0x6111 State.reset (fun t => t.crcState = 0x174841BC) = true := by decide

/-- Section 2.1. -/
theorem test_crcByte_ff : runs 0xFF11 State.reset (fun t => t.crcState = 0x00FFFFFF) = true := by decide

/-- Program P1: the range "IEND". -/
theorem test_crcMem_iend :
    runs 0x12 (withArgs (memWrite [] 0x100 [0x49, 0x45, 0x4E, 0x44]) 0x100 4 0 0)
      (fun t => t.crcState = 0x51BD9F7D ∧ readReg t .status = 0x2) = true := by decide +kernel

/-- Section 2.1: one byte past the end of data memory. -/
theorem test_crcMem_badAddress :
    runs 0x12 (withArgs [] 0xFFFF 2 0 0)
      (fun t => readReg t .status = 0xD06 ∧ t.errInfo = 1 ∧ t.crcState = 0xFFFFFFFF) = true := by decide

/-- Section 2.1. -/
theorem test_crcFinal :
    runs 0x13 { State.reset with crcState := 0x174841BC }
      (fun t => t.crcOut = 0xE8B7BE43 ∧ t.crcState = 0x174841BC) = true := by decide

/-- Program P2. -/
theorem test_frStart_opens :
    runs 0x20 { streamState .failed [] with arg0 := 0x1000, arg1 := 71 }
      (fun t => readReg t .seq = 1 ∧ t.inPtr = 0x1000 ∧ t.inEnd = 0x1047 ∧ readReg t .cfgValid = 0) = true := by decide

/-- Section 2.2. -/
theorem test_frStart_badAddress :
    runs 0x20 (withArgs [] 0xFFFF 2 0 0) (fun t => readReg t .status = 0xD06 ∧ readReg t .seq = 0) = true := by decide

/-- Vector L1-9, length 8. -/
theorem test_frSig_accepts :
    runs 0x21 (streamState .expectSig sigBytes) (fun t => t.inPtr = 0x1008 ∧ readReg t .seq = 2) = true := by
  decide +kernel

/-- Vector L1-9, a wrong first byte. -/
theorem test_frSig_rejects :
    runs 0x21 (streamState .expectSig (0x88 :: sigBytes.tail))
      (fun t => readReg t .status = 0x106 ∧ t.errInfo = 2 ∧ t.inPtr = 0x1000 ∧ readReg t .seq = 5) = true := by
  decide +kernel

/-- Program P2, the image-data chunk. -/
theorem test_frChunk_idat :
    runs 0x22 (streamState .body idatChunk)
      (fun t => readReg t .seq = 0x43 ∧ t.inPtr = 0x101A ∧ t.chunkLen = 0xE ∧ t.chunkTag = 0x49444154 ∧
        t.chunkCrc = 0xFD9012A5 ∧ t.chunkCrcCalc = 0xFD9012A5 ∧ readReg t .chunkClass = 4 ∧ t.chunkPayload = 0x1008 ∧
        t.zbLen = 0xE ∧ memRead t.mem 0x2000 14 = memRead t.mem 0x1008 14) = true := by decide +kernel

/-- Program P4: bit 0 of the first payload byte flipped. -/
theorem test_frChunk_flipped_bit :
    runs 0x22 (streamState .body (idatChunk.set 8 0x79))
      (fun t => readReg t .status = 0x206 ∧ t.errInfo = 3 ∧ readReg t .seq = 5 ∧ t.chunkCrcCalc = 0x609FF3D3 ∧
        t.inPtr = 0x1000 ∧ t.zbLen = 0) = true := by decide +kernel

/-- Section 2.3: RGBA, 16 bits. -/
theorem test_ldHdr_rgba16 :
    runs 0x30 (withArgs (memWrite [] 0x100 [0xFF, 0xFF, 0xFF, 0xFF, 0xFF, 0xFF, 0xFF, 0xFF, 16, 6, 0, 0, 0]) 0x100 13 0 0)
      (fun t => readReg t .hdrFmt = 0x610 ∧ t.cfg.hdrWidth = 0xFFFFFFFF ∧ readReg t .cfgValid = 1) = true := by
  decide +kernel

/-- Section 2.3: a second header with an illegal depth leaves the first. -/
theorem test_ldHdr_keeps_old :
    runs 0x30 { streamState .idle [0, 0, 0, 3, 0, 0, 0, 3, 4, 2, 0, 0, 0] with arg0 := 0x1000, arg1 := 13 }
      (fun t => readReg t .status = 0x306 ∧ t.errInfo = 7 ∧ t.cfg.hdrWidth = 2 ∧ readReg t .hdrFmt = 8) = true := by
  decide +kernel

/-- Program P3. -/
theorem test_ldPlte_two_entries :
    runs 0x31 { withArgs (memWrite [] 0x110 [0x11, 0x22, 0x33, 0x44, 0x55, 0x66]) 0x110 6 0 0 with cfg := headerCfg 2 1 1 3 }
      (fun t => readReg t .plteCount = 2 ∧ readReg t (.palette 0) = 0x00332211 ∧ readReg t (.palette 1) = 0x00665544 ∧
        readReg t (.palette 2) = 0 ∧ readReg t .cfgValid = 3) = true := by decide +kernel

/-- Section 2.3: 771 bytes. -/
theorem test_ldPlte_too_long :
    runs 0x31 { withArgs [] 0x100 771 0 0 with cfg := headerCfg 1 1 8 3 }
      (fun t => readReg t .status = 0x406 ∧ t.errInfo = 2 ∧ readReg t .cfgValid = 1) = true := by decide +kernel

/-- Program P3. -/
theorem test_ldTrns_alpha_table :
    runs 0x32 { withArgs (memWrite [] 0x120 [0x00, 0xFF]) 0x120 2 0 0 with cfg := paletteCfg }
      (fun t => readReg t .trnsCount = 2 ∧ readReg t (.alpha 0) = 0 ∧ readReg t (.alpha 1) = 0xFF ∧
        readReg t .cfgValid = 7) = true := by decide +kernel

/-- Section 2.3: RGB keys. -/
theorem test_ldTrns_rgb_keys :
    runs 0x32 { withArgs (memWrite [] 0x100 [1, 2, 3, 4, 5, 6]) 0x100 6 0 0 with cfg := headerCfg 1 1 8 2 }
      (fun t => t.cfg.trnsKey0 = 0x0102 ∧ t.cfg.trnsKey1 = 0x0304 ∧ t.cfg.trnsKey2 = 0x0506 ∧
        readReg t .trnsCount = 0) = true := by decide +kernel

/-- Section 2.3, the assembler's first row. -/
theorem test_zbAppend_copies :
    runs 0x33 { withArgs (memWrite [] 0 [0x61, 0x62, 0x63, 0x64]) 0 4 0 0 with zbBase := 0x2000, zbCap := 4 }
      (fun t => t.zbLen = 4 ∧ memRead t.mem 0x2000 4 = [0x61, 0x62, 0x63, 0x64]) = true := by decide +kernel

/-- Section 2.3: a buffer past the end of data memory. -/
theorem test_zbAppend_badAddress :
    runs 0x33 { withArgs [] 0 0 0 0 with zbBase := 0xFFF0, zbCap := 0x20 }
      (fun t => readReg t .status = 0xD06 ∧ t.errInfo = 2) = true := by decide +kernel

/-- Section 2.4: Gray 16, 2 x 2, Sub over Paeth. -/
theorem test_defilt_gray16 :
    runs 0x40
      { withArgs (memWrite [] 0x100 [1, 0x12, 0x34, 1, 1, 4, 1, 1, 1, 1]) 0x100 10 0x200 8 with cfg := headerCfg 2 2 16 0 }
      (fun t => memRead t.mem 0x200 8 = [0x12, 0x34, 0x13, 0x35, 0x13, 0x35, 0x14, 0x36]) = true := by decide +kernel

/-- Section 2.4: in place, then the bytes beyond the output are the old input. -/
theorem test_defilt_in_place :
    runs 0x40 { withArgs (memWrite [] 0x100 [0, 1, 2, 0, 3, 4]) 0x100 6 0x100 4 with cfg := headerCfg 2 2 8 0 }
      (fun t => memRead t.mem 0x100 6 = [1, 2, 3, 4, 3, 4]) = true := by decide +kernel

/-- Section 2.4: the Average sum is taken in nine bits. -/
theorem test_fltByte_average : runs 0x341 (withArgs [] 0 200 100 0) (fun t => t.result = 150) = true := by decide

/-- Section 2.4: Paeth with `p` above 255. -/
theorem test_fltByte_paeth : runs 0x441 (withArgs [] 0 10 40 20) (fun t => t.result = 40) = true := by decide

/-- Section 2.5: sample 2 of depth 4 in `B4 5C`. -/
theorem test_sample_depth_4 :
    runs 0x442 (withArgs (memWrite [] 0x10 [0xB4, 0x5C]) 0x10 2 0 0) (fun t => t.result = 5) = true := by decide +kernel

/-- Section 2.5: the sample after the last bit of memory. -/
theorem test_sample_badAddress :
    runs 0x142 (withArgs [] 0xFFFF 8 0 0) (fun t => readReg t .status = 0xD06 ∧ t.errInfo = 1) = true := by decide

/-- Section 2.6: Gray 2 with the raw key 2. -/
theorem test_conv_gray2_key :
    runs 0x50
      { withArgs (memWrite [] 0x100 [0x1B]) 0x100 1 0x400 16 with
        cfg := { headerCfg 4 1 2 0 with valid := ⟨true, false, true⟩, trnsKey0 := 2 } }
      (fun t => memRead t.mem 0x400 16 =
        [0, 0, 0, 0xFF, 0x55, 0x55, 0x55, 0xFF, 0xAA, 0xAA, 0xAA, 0, 0xFF, 0xFF, 0xFF, 0xFF]) = true := by decide +kernel

/-- Program P3. -/
theorem test_conv_palette :
    runs 0x50 { withArgs (memWrite [] 0x140 [0x40]) 0x140 1 0x150 8 with cfg := alphaCfg }
      (fun t => memRead t.mem 0x150 8 = [0x11, 0x22, 0x33, 0, 0x44, 0x55, 0x66, 0xFF]) = true := by decide +kernel

/-! ### The host's side -/

/-- Section 2.8: a second command word while busy. -/
theorem test_overrun :
    steps { State.reset.withFetchWord 32 0x10 with turns := [.host (.writeReg 0x00C 4 0x13)] }
      (fun t => readReg t .status = 0x9 ∧ t.cmd = 0x10) = true := by decide

/-- Section 2.8: write one to clear. -/
theorem test_status_clear :
    steps { State.reset with status := ⟨false, true, false, true, 0⟩, turns := [.host (.writeReg 0x008 4 0x2)] }
      (fun t => readReg t .status = 0x8) = true := by decide

/-- 10_state.md R32: a reserved offset reads 0. -/
theorem test_read_reserved :
    steps { State.reset with turns := [.host (.readReg 0x3FC 4)] } (fun t => t.readData = some 0) = true := by decide

/-- 10_state.md R67: `STATUS` is read, and `CTRL` written, while a command runs. -/
theorem test_status_read_while_busy :
    steps { State.reset.withFetchWord 32 0x10 with turns := [.host (.readReg 0x008 4)] }
      (fun t => t.readData = some 0x1) = true := by decide

theorem test_ctrl_write_while_busy :
    steps { State.reset.withFetchWord 32 0x10 with turns := [.host (.writeReg 0x004 4 0xFFFFFFFF)] }
      (fun t => readReg t .ctrl = 1 ∧ t.status.busy = true) = true := by decide

/-- 20_memory.md R102: power-on with bytes drawn at will, the smallest memory R9 allows. -/
theorem test_powerOn_draws :
    memRead (State.powerOn ⟨16, 0, by decide, by decide⟩ (fun a => BitVec.ofNat 8 (3 * a))).mem 0 16 =
      [0, 3, 6, 9, 12, 15, 18, 21, 24, 27, 30, 33, 36, 39, 42, 45] := by decide

/-- 00_scope.md R16: 10 pixels of one bit take 2 bytes, and 16-bit RGB takes 6 bytes a pixel. -/
theorem test_image_quantities :
    bytesPerLine ⟨10, 2, .gray, 1⟩ = 2 ∧ bytesPerPixel ⟨10, 2, .gray, 1⟩ = 1 ∧
    bytesPerLine ⟨1, 1, .rgb, 16⟩ = 6 ∧ bytesPerPixel ⟨1, 1, .rgb, 16⟩ = 6 := by decide

/-- 10_state.md R33. -/
theorem test_read_id :
    steps { State.reset with turns := [.host (.readReg 0x000 4)] } (fun t => t.readData = some 0x504E4701) = true := by
  decide

/-! ### Witnesses: for every statement with hypotheses, states that meet them -/

/-- A latched command word on an idle-framer block. -/
def latched (w : Word) : State := acceptCommand State.reset w

/-- The reset state with the host's next action. -/
def hostTurn (a : HostAction) : State := { State.reset with turns := [.host a] }

/-- The same on a block that runs a command. -/
def busyTurn (a : HostAction) : State := { latched 0x10 with turns := [.host a] }

theorem witness_DecodeEncodeRoundTrip :
    Instr.wellFormed (.sample 8) = true ∧ Instr.wellFormed (.fltByte 255) = true ∧ Instr.wellFormed .conv = true ∧
      decode 0x00000842 = .ok (.sample 8) ∧ decode 0x0000FF11 = .ok (.crcByte 0xFF) := by decide

theorem witness_IllegalWordsRaiseBadCommand :
    (∀ w, (latched w).turns = [] ∧ (latched w).latch = some w) ∧
    (∀ w, ({ latched w with turns := [.engine] } : State).turns = .engine :: [] ∧
      ({ latched w with turns := [.engine] } : State).latch = some w) ∧
    ((0x00010000#32).extractLsb' 16 16 ≠ 0 ∧ (0x80000000#32).extractLsb' 16 16 ≠ 0) ∧
    ((0x000000FF#32).extractLsb' 16 16 = 0 ∧ (0x000000FF#32).extractLsb' 0 8 = 0xFF) ∧
    ((0x0000FF50#32).extractLsb' 0 8 = 0x50 ∧ (0x0000FF50#32).extractLsb' 8 8 ≠ 0) ∧
    ((0x00000042#32).extractLsb' 0 8 = 0x42 ∧ (0x00000042#32).extractLsb' 8 8 = 0) ∧
    ((0x00000541#32).extractLsb' 0 8 = 0x41 ∧ 4 < ((0x00000541#32).extractLsb' 8 8).toNat) :=
  ⟨fun _ => ⟨rfl, rfl⟩, fun _ => ⟨rfl, rfl⟩, by decide, by decide, by decide, by decide, by decide⟩

theorem witness_StepRunsTheLatchedCommand :
    ((latched 0x10).latch = some 0x10 ∧ decode 0x10 = .ok .crcInit ∧ (latched 0x10).turns = []) ∧
    (State.reset.withFetchWord 32 0x10).turns = .engine :: [] ∧ (State.reset.withFetchWord 32 0x10).latch = some 0x10 ∧
    State.reset.latch = none ∧ State.reset.turns = [] ∧
    ({ State.reset with turns := [.engine] } : State).turns = .engine :: [] := by decide

theorem witness_HardwareResetResult :
    (busyTurn .hardwareReset).turns = .host .hardwareReset :: [] ∧ (busyTurn .hardwareReset).status.busy = true := by decide

theorem witness_CrcMemResult :
    ((withArgs [] 0x10000 0 0 0).arg0.toNat + (withArgs [] 0x10000 0 0 0).arg1.toNat = State.reset.params.memSize) ∧
    (State.reset.params.memSize < (withArgs [] 0xFFFF 2 0 0).arg0.toNat + (withArgs [] 0xFFFF 2 0 0).arg1.toNat) ∧
    0xFFF0 + (8 + 8) ≤ State.reset.params.memSize := by decide

theorem witness_FrStartResult :
    (withArgs [] 0x1000 0xF000 0 0).arg0.toNat + (withArgs [] 0x1000 0xF000 0 0).arg1.toNat ≤ State.reset.params.memSize ∧
    State.reset.params.memSize < (withArgs [] 0x1000 0xF001 0 0).arg0.toNat + (withArgs [] 0x1000 0xF001 0 0).arg1.toNat := by
  decide

theorem witness_FrSigResult :
    (State.reset.seq.state ≠ .expectSig) ∧
    (let s := streamState .expectSig (sigBytes.take 7);
      s.seq.state = .expectSig ∧ s.inEnd.toNat ≤ s.params.memSize ∧ s.inEnd.toNat < s.inPtr.toNat + 8) ∧
    (let s := streamState .expectSig (0x88 :: sigBytes.tail);
      s.inEnd.toNat ≤ s.params.memSize ∧ s.inPtr.toNat + 8 ≤ s.inEnd.toNat ∧
        memRead s.mem s.inPtr.toNat 8 ≠ [0x89, 0x50, 0x4E, 0x47, 0x0D, 0x0A, 0x1A, 0x0A]) ∧
    (let s := streamState .expectSig sigBytes;
      s.inEnd.toNat ≤ s.params.memSize ∧ s.inPtr.toNat + 8 ≤ s.inEnd.toNat ∧
        memRead s.mem s.inPtr.toNat 8 = [0x89, 0x50, 0x4E, 0x47, 0x0D, 0x0A, 0x1A, 0x0A]) := by decide +kernel

/-- Section 2.2: a short stream, a length one above the limit, the limit itself, a truncated chunk, a wrong CRC. -/
theorem witness_FrChunkFramingErrors :
    (streamState .failed []).seq.state = .failed ∧ (streamState .done []).seq.state = .done ∧
    (let s := streamState .body (iendChunk.take 7);
      s.inEnd.toNat ≤ s.params.memSize ∧ s.inEnd.toNat < s.inPtr.toNat + 8) ∧
    (let s := streamState .body [0x06, 0x40, 0x00, 0x01, 0x49, 0x48, 0x44, 0x52];
      s.inPtr.toNat + 8 ≤ s.inEnd.toNat ∧ 104857600 < (be32 s.mem s.inPtr.toNat).toNat) ∧
    (let s := streamState .body [0x06, 0x40, 0x00, 0x00, 0x49, 0x48, 0x44, 0x52];
      s.inPtr.toNat + 8 ≤ s.inEnd.toNat ∧ (be32 s.mem s.inPtr.toNat).toNat ≤ 104857600 ∧
        s.inEnd.toNat < s.inPtr.toNat + 12 + (be32 s.mem s.inPtr.toNat).toNat) ∧
    (let s := streamState .body (iendChunk.set 11 0x83);
      (be32 s.mem s.inPtr.toNat).toNat ≤ 104857600 ∧ s.inPtr.toNat + 12 + 0 ≤ s.inEnd.toNat ∧
        crc32 (memRead s.mem (s.inPtr.toNat + 4) (4 + 0)) ≠ be32 s.mem (s.inPtr.toNat + 8 + 0)) := by decide +kernel

/-- `ChunkSound` as a computation, for a framer in state BODY. -/
def soundAt (bs : List Byte) (len : Nat) (tag : Word) : Bool :=
  let s := streamState .body bs
  s.inEnd.toNat ≤ s.params.memSize ∧ len = (be32 s.mem s.inPtr.toNat).toNat ∧ tag = be32 s.mem (s.inPtr.toNat + 4) ∧
    len ≤ 104857600 ∧ s.inPtr.toNat + 12 + len ≤ s.inEnd.toNat ∧
    be32 s.mem (s.inPtr.toNat + 8 + len) = crc32 (memRead s.mem (s.inPtr.toNat + 4) (4 + len))

theorem soundAt_sound {bs : List Byte} {len : Nat} {tag : Word} (h : soundAt bs len tag = true) :
    ChunkSound (streamState .body bs) len tag :=
  have ⟨h1, h2, h3, h4, h5, h6⟩ := of_decide_eq_true h
  ⟨⟨h1, h2, h3, h4, h5⟩, h6⟩

theorem streamState_sound {bs : List Byte} {len : Nat} {tag : Word} (q : SeqState)
    (h : ChunkSound (streamState .body bs) len tag) : ChunkSound (streamState q bs) len tag :=
  ⟨⟨h.stream, h.len_eq, h.tag_eq, h.len_le, h.fits⟩, h.crc⟩

theorem ihdr_sound (q : SeqState) : ChunkSound (streamState q ihdrChunk) 13 0x49484452 :=
  streamState_sound q (soundAt_sound (by decide +kernel))
theorem plte_sound (q : SeqState) : ChunkSound (streamState q plteChunk) 3 0x504C5445 :=
  streamState_sound q (soundAt_sound (by decide +kernel))
theorem trns_sound (q : SeqState) : ChunkSound (streamState q trnsChunk) 2 0x74524E53 :=
  streamState_sound q (soundAt_sound (by decide +kernel))
theorem idat_sound (q : SeqState) : ChunkSound (streamState q idatChunk) 14 0x49444154 :=
  streamState_sound q (soundAt_sound (by decide +kernel))
theorem iend_sound (q : SeqState) : ChunkSound (streamState q iendChunk) 0 0x49454E44 :=
  streamState_sound q (soundAt_sound (by decide +kernel))
theorem text_sound (q : SeqState) : ChunkSound (streamState q textChunk) 2 0x74655874 :=
  streamState_sound q (soundAt_sound (by decide +kernel))

/-- A stream state with the flags of the sequencer set as well. -/
def seenState (s : State) (plte trns idat : Bool) : State := { s with seq := ⟨s.seq.state, plte, trns, idat⟩ }

theorem seenState_sound (s : State) (plte trns idat : Bool) (len : Nat) (tag : Word) (h : ChunkSound s len tag) :
    ChunkSound (seenState s plte trns idat) len tag :=
  ⟨⟨h.stream, h.len_eq, h.tag_eq, h.len_le, h.fits⟩, h.crc⟩

theorem witness_FrChunkOrderErrors :
    (ChunkSound (streamState .expectIhdr idatChunk) 14 0x49444154 ∧ (0x49444154 : Word) ≠ 0x49484452) ∧
    ChunkSound (streamState .body ihdrChunk) 13 0x49484452 ∧
    (ChunkSound (seenState (streamState .body plteChunk) true false false) 3 0x504C5445) ∧
    (ChunkSound (seenState (streamState .body trnsChunk) false true false) 2 0x74524E53) ∧
    (ChunkSound (streamState .body iendChunk) 0 0x49454E44 ∧ (streamState .body iendChunk).seq.seenIdat = false) :=
  ⟨⟨idat_sound _, by decide⟩, ihdr_sound _, seenState_sound _ _ _ _ _ _ (plte_sound _),
    seenState_sound _ _ _ _ _ _ (trns_sound _), iend_sound _, rfl⟩

theorem witness_FrChunkSkipsOtherAndEndChunks :
    (ChunkSound (streamState .body textChunk) 2 0x74655874 ∧ (streamState .body textChunk).seq.state = .body ∧
      (0x74655874 : Word) ∉ [0x49484452, 0x504C5445, 0x74524E53, 0x49444154, 0x49454E44]) ∧
    (ChunkSound (seenState (streamState .body iendChunk) false false true) 0 0x49454E44 ∧
      (seenState (streamState .body iendChunk) false false true).seq.seenIdat = true) :=
  ⟨⟨text_sound _, rfl, by decide⟩, seenState_sound _ _ _ _ _ _ (iend_sound _), rfl⟩

/-- The image-data chunk with room for exactly its bytes, with one byte less, and with a buffer outside memory. -/
theorem witness_FrChunkAppendsImageData :
    ChunkSound (streamState .body idatChunk) 14 0x49444154 ∧ Memory.wf (streamState .body idatChunk).mem ∧
    (streamState .body idatChunk).seq.state = .body ∧
    (let s : State := { streamState .body idatChunk with zbCap := 14 };
      s.zbBase.toNat + s.zbCap.toNat ≤ s.params.memSize ∧ s.zbLen.toNat + 14 ≤ s.zbCap.toNat) ∧
    (let s : State := { streamState .body idatChunk with zbCap := 13 };
      s.zbBase.toNat + s.zbCap.toNat ≤ s.params.memSize ∧ s.zbCap.toNat < s.zbLen.toNat + 14) ∧
    (let s : State := { streamState .body idatChunk with zbCap := 0xE001 };
      s.params.memSize < s.zbBase.toNat + s.zbCap.toNat) :=
  ⟨idat_sound _, by decide +kernel, rfl, by decide, by decide, by decide⟩

/-- The payload's loader state of `FrChunkAgreesWithLoaders`, for a chunk at 0x1000. -/
def onPayloadOf (s : State) (len : Nat) : State := { s with arg0 := s.inPtr + 8, arg1 := BitVec.ofNat 32 len }

/-- An outcome is a next state whose error flag is `err`. -/
def answers (o : Host.Outcome State Fault Refusal) (err : Bool) : Bool :=
  match o with
  | .next u => u.status.err == err
  | .fault _ => false
  | .refused _ => false

theorem witness_FrChunkAgreesWithLoaders :
    (ChunkSound (streamState .expectIhdr ihdrChunk) 13 0x49484452 ∧
      answers (exec .ldHdr (onPayloadOf (streamState .expectIhdr ihdrChunk) 13)) false) ∧
    (ChunkSound (streamState .body plteChunk) 3 0x504C5445 ∧ (streamState .body plteChunk).seq.seenPlte = false ∧
      answers (exec .ldPlte (onPayloadOf (streamState .body plteChunk) 3)) true) ∧
    (ChunkSound (streamState .body trnsChunk) 2 0x74524E53 ∧ (streamState .body trnsChunk).seq.seenTrns = false ∧
      answers (exec .ldTrns (onPayloadOf (streamState .body trnsChunk) 2)) false) :=
  ⟨⟨ihdr_sound _, by decide +kernel⟩, ⟨plte_sound _, rfl, by decide +kernel⟩, trns_sound _, rfl, by decide +kernel⟩

theorem witness_FrChunkMemoryFrame : answers (exec .frChunk (streamState .body idatChunk)) false := by
  decide +kernel

theorem witness_FramerFailureKeepsRegisters :
    answers (exec .frSig (streamState .expectSig [])) true ∧ answers (exec .frChunk (streamState .body [])) true ∧
    answers (exec .frChunk State.reset) true :=
  ⟨by decide +kernel, by decide +kernel, by decide +kernel⟩

/-- The first tag byte and the last payload byte of the image-data chunk. -/
theorem witness_FlippedBitIsCorrupt :
    Memory.wf (streamState .body idatChunk).mem ∧ (streamState .body idatChunk).seq.state = .body ∧
    ChunkSound (streamState .body idatChunk) 14 0x49444154 ∧
    (0x1000 + 4 ≤ 0x1004 ∧ 0x1004 < 0x1000 + 8 + 14) ∧ (0x1000 + 4 ≤ 0x1015 ∧ 0x1015 < 0x1000 + 8 + 14) :=
  ⟨by decide +kernel, rfl, idat_sound _, by decide, by decide⟩

theorem witness_SequencerMoves :
    answers (exec .sreset State.reset) false ∧ answers (exec .frStart State.reset) false ∧
    answers (exec .nop State.reset) false ∧ answers (exec .frSig (streamState .expectSig sigBytes)) false ∧
    answers (exec .frSig (streamState .expectSig [])) true ∧
    answers (exec .frChunk (streamState .expectIhdr ihdrChunk)) false ∧
    answers (exec .frChunk (streamState .body textChunk)) false ∧
    answers (exec .frChunk (streamState .done [])) true :=
  ⟨by decide +kernel, by decide +kernel, by decide +kernel, by decide +kernel, by decide +kernel,
    by decide +kernel, by decide +kernel, by decide +kernel⟩

theorem witness_FailedStreamIsLeftByFrStartOrSreset :
    (streamState .failed []).seq.state = .failed ∧ answers (exec .frSig (streamState .failed [])) true ∧
    answers (exec .defilt (streamState .failed [])) true ∧ answers (exec .sreset (streamState .failed [])) false :=
  ⟨rfl, by decide +kernel, by decide +kernel, by decide +kernel⟩

theorem witness_LdPlteResult :
    State.reset.params.memSize < (withArgs [] 0xFFFF 2 0 0).arg0.toNat + (withArgs [] 0xFFFF 2 0 0).arg1.toNat ∧
    (0xFD00 + 768 ≤ State.reset.params.memSize ∧ State.reset.cfg.valid.hdr = false) ∧
    ((headerCfg 1 1 8 0).valid.hdr = true ∧ (headerCfg 1 1 8 0).hdrFmt.color ≠ 3) ∧
    ((headerCfg 1 1 8 3).valid.hdr = true ∧ (headerCfg 1 1 8 3).hdrFmt.color = 3) ∧
    767 % 3 ≠ 0 ∧ (771 % 3 = 0 ∧ 768 < 771) ∧ (768 % 3 = 0 ∧ 768 ≤ 768) ∧ (0 % 3 = 0 ∧ 0 ≤ 768) := by decide

theorem witness_LdTrnsResult :
    (0xFF00 + 256 ≤ State.reset.params.memSize ∧ State.reset.cfg.valid.hdr = false) ∧
    (∀ c ∈ ([0, 2, 3, 4, 6] : List Byte), (headerCfg 1 1 8 c).valid.hdr = true ∧ (headerCfg 1 1 8 c).hdrFmt.color = c) ∧
    (paletteCfg.valid.plte = true ∧ paletteCfg.hdrFmt.color = 3 ∧ paletteCfg.plteCount.toNat = 2 ∧
      paletteCfg.plteCount.toNat < 3 ∧ 2 ≤ paletteCfg.plteCount.toNat) ∧
    (headerCfg 1 1 8 3).valid.plte = false := by decide

theorem witness_ZbAppendResult :
    (0xFFFC + 4 ≤ State.reset.params.memSize ∧ State.reset.params.memSize < 0xFFFC + 5) ∧
    (let s : State := { withArgs [] 0 4 0 0 with zbBase := 0xFFF0, zbCap := 0x11 };
      s.params.memSize < s.zbBase.toNat + s.zbCap.toNat) ∧
    (let s : State := { withArgs [] 0 4 0 0 with zbBase := 0xFFF0, zbCap := 0x10, zbLen := 0xD };
      s.zbBase.toNat + s.zbCap.toNat ≤ s.params.memSize ∧ s.zbCap.toNat < s.zbLen.toNat + s.arg1.toNat) ∧
    (let s : State := { withArgs [] 0 4 0 0 with zbBase := 0xFFF0, zbCap := 0x10, zbLen := 0xC };
      s.zbBase.toNat + s.zbCap.toNat ≤ s.params.memSize ∧ s.zbLen.toNat + s.arg1.toNat ≤ s.zbCap.toNat ∧
        Memory.wf s.mem) := by decide

/-- A Gray 2 x 2 image of depth 8 whose rows are Sub and Paeth, with exact lengths, in place. -/
def grayImage : State :=
  { withArgs (memWrite [] 0x100 [1, 10, 20, 4, 5, 5]) 0x100 6 0x100 4 with cfg := headerCfg 2 2 8 0 }

theorem grayImage_defiltReady : DefiltReady grayImage ⟨2, 2, .gray, 8⟩ :=
  ⟨.inl rfl, rfl, by decide +kernel, by decide +kernel, by decide +kernel, by decide +kernel, by decide +kernel,
    by decide +kernel⟩

/-- One clause each: open stream, no header, a source and a destination outside memory, then short, small, and a row with
the tag 5. -/
theorem witness_DefiltErrors :
    (streamState .body []).seq.state = .body ∧ State.reset.cfg.valid.hdr = false ∧
    (¬((withArgs [] 0xFFFE 6 0 0).arg0.toNat + (withArgs [] 0xFFFE 6 0 0).arg1.toNat ≤ State.reset.params.memSize)) ∧
    (¬((withArgs [] 0 6 0xFFFE 4).arg2.toNat + (withArgs [] 0 6 0xFFFE 4).arg3.toNat ≤ State.reset.params.memSize)) ∧
    imageShape (headerCfg 2 2 8 0) = some ⟨2, 2, .gray, 8⟩ ∧ bytesPerLine ⟨2, 2, .gray, 8⟩ = 2 ∧
    5 < 2 * (2 + 1) ∧ 3 < 2 * 2 ∧
    (let m := memWrite [] 0x100 [0, 1, 2, 5, 3, 4];
      4 < (memByte m (0x100 + 1 * (2 + 1))).toNat ∧ ∀ z < 1, (memByte m (0x100 + z * (2 + 1))).toNat ≤ 4) := by
  decide +kernel

theorem witness_DefiltReconstructs : Memory.wf grayImage.mem ∧ DefiltReady grayImage ⟨2, 2, .gray, 8⟩ :=
  ⟨by decide +kernel, grayImage_defiltReady⟩

/-- The image whose filtered form `grayImage` holds: rows `0A 1E` and `0F 23`. -/
theorem witness_FilterRoundTrip :
    let orig := fun y x => ([[10, 30], [15, 35]] : List (List Byte)).getD y [] |>.getD x 0
    let tag := fun y => if y = 0 then FilterType.sub else FilterType.paeth
    ∀ y < 2,
      filterTypeOf (memByte grayImage.mem (0x100 + y * (bytesPerLine ⟨2, 2, .gray, 8⟩ + 1))) = some (tag y) ∧
      ∀ x < bytesPerLine ⟨2, 2, .gray, 8⟩,
        memByte grayImage.mem (0x100 + y * (bytesPerLine ⟨2, 2, .gray, 8⟩ + 1) + 1 + x) =
          orig y x - predictedAt (tag y) (bytesPerPixel ⟨2, 2, .gray, 8⟩) orig y x := by decide +kernel

theorem witness_FltByteResult : (4 : Nat) < (5 : Byte).toNat ∧ (4 : Nat) < (255 : Byte).toNat := by decide

theorem witness_PaethMinimisesInTieOrder :
    let dist := fun (a b c v : Byte) => |(a.toNat : Int) + b.toNat - c.toNat - (v.toNat : Int)|
    (dist 10 10 20 10 ≤ dist 10 10 20 20) ∧ (dist 10 40 20 40 < dist 10 40 20 10 ∧ dist 10 40 20 40 ≤ dist 10 40 20 20) ∧
    (dist 5 9 7 7 < dist 5 9 7 5 ∧ dist 5 9 7 7 < dist 5 9 7 9) ∧ (dist 5 9 7 5 = dist 5 9 7 9 ∧ (5 : Byte) ≠ 9) := by
  decide

/-- Section 2.5: the last bit of memory, and the one after it. -/
theorem witness_SampleResult :
    (0xFFFF + 7 * 1 / 8) + 1 ≤ State.reset.params.memSize ∧ State.reset.params.memSize < (0xFFFF + 8 * 1 / 8) + 1 := by decide

/-- An image of the given header at 0x100 with its output at 0x400, exact lengths. -/
def convImageState (cfg : ImageConfig) (bs : List Byte) (out : Word) : State :=
  { withArgs (memWrite [] 0x100 bs) 0x100 (BitVec.ofNat 32 bs.length) 0x400 out with cfg := cfg }

theorem witness_ConvErrors :
    (streamState .expectSig []).seq.state = .expectSig ∧ State.reset.cfg.valid.hdr = false ∧
    imageShape (headerCfg 2 2 8 3) = some ⟨2, 2, .palette, 8⟩ ∧ (headerCfg 2 2 8 3).valid.plte = false ∧
    3 < 2 * bytesPerLine ⟨2, 2, .palette, 8⟩ ∧ 2 * bytesPerLine ⟨2, 2, .palette, 8⟩ ≤ 4 ∧ 15 < 2 * 2 * 4 := by
  decide +kernel

/-- Gray of depth 2 with the raw key 2, and Gray of depth 16. -/
theorem witness_ConvGrayPixels :
    Memory.wf (convImageState (headerCfg 4 1 2 0) [0x1B] 16).mem ∧
    ConvReady (convImageState (headerCfg 4 1 2 0) [0x1B] 16) ⟨4, 1, .gray, 2⟩ ∧
    ConvReady (convImageState (headerCfg 1 1 16 0) [0x12, 0x34] 4) ⟨1, 1, .gray, 16⟩ :=
  ⟨by decide +kernel,
    ⟨.inl rfl, rfl, by decide +kernel, by decide +kernel, by decide +kernel, by decide +kernel, by decide, by decide +kernel⟩,
    ⟨.inl rfl, rfl, by decide +kernel, by decide +kernel, by decide +kernel, by decide +kernel, by decide, by decide +kernel⟩⟩

theorem witness_ConvRgbPixels :
    Memory.wf (convImageState (headerCfg 1 1 16 2) [0x11, 0x22, 0x33, 0x44, 0x55, 0x66] 4).mem ∧
    ConvReady (convImageState (headerCfg 1 1 16 2) [0x11, 0x22, 0x33, 0x44, 0x55, 0x66] 4) ⟨1, 1, .rgb, 16⟩ :=
  ⟨by decide +kernel,
    ⟨.inl rfl, rfl, by decide +kernel, by decide +kernel, by decide +kernel, by decide +kernel, by decide, by decide +kernel⟩⟩

/-- The two-entry palette with its alpha table: index 1 is the last inside both, index 2 the first outside both. -/
theorem witness_ConvPalettePixels :
    Memory.wf (convImageState alphaCfg [0x40] 8).mem ∧ ConvReady (convImageState alphaCfg [0x40] 8) ⟨2, 1, .palette, 1⟩ ∧
    alphaCfg.plteCount.toNat = 2 ∧ alphaCfg.trnsCount.toNat = 2 :=
  ⟨by decide +kernel,
    ⟨.inl rfl, rfl, by decide +kernel, by decide +kernel, by decide +kernel, by decide +kernel, fun _ => rfl,
      by decide +kernel⟩, rfl, rfl⟩

theorem witness_ConvAlphaModePixels :
    Memory.wf (convImageState (headerCfg 1 1 16 4) [0x10, 0x11, 0x80, 0x81] 4).mem ∧
    ConvReady (convImageState (headerCfg 1 1 16 4) [0x10, 0x11, 0x80, 0x81] 4) ⟨1, 1, .grayAlpha, 16⟩ ∧
    ConvReady (convImageState (headerCfg 1 1 8 6) [1, 2, 3, 4] 4) ⟨1, 1, .rgba, 8⟩ :=
  ⟨by decide +kernel,
    ⟨.inl rfl, rfl, by decide +kernel, by decide +kernel, by decide +kernel, by decide +kernel, by decide, by decide +kernel⟩,
    ⟨.inl rfl, rfl, by decide +kernel, by decide +kernel, by decide +kernel, by decide +kernel, by decide, by decide +kernel⟩⟩

theorem witness_DestinationOnlyIsWritten :
    answers (exec .defilt grayImage) false ∧ imageShape grayImage.cfg = some ⟨2, 2, .gray, 8⟩ ∧
    answers (exec .conv (convImageState alphaCfg [0x40] 8)) false ∧
    imageShape (convImageState alphaCfg [0x40] 8).cfg = some ⟨2, 1, .palette, 1⟩ :=
  ⟨by decide +kernel, by decide +kernel, by decide +kernel, by decide +kernel⟩

/-- `DEFILT` in place and elsewhere, `CONV` over its source and elsewhere, `ZB.APPEND` to two buffers. -/
theorem witness_OutputDoesNotDependOnOverlap :
    DefiltReady { grayImage with arg2 := 0x200 } ⟨2, 2, .gray, 8⟩ ∧
    ConvReady { convImageState alphaCfg [0x40] 8 with arg2 := 0x100 } ⟨2, 1, .palette, 1⟩ ∧
    (let s : State := { withArgs (memWrite [] 0 [1, 2, 3, 4]) 0 4 0 0 with zbBase := 2, zbCap := 4 };
      Memory.wf s.mem ∧ s.arg0.toNat + s.arg1.toNat ≤ s.params.memSize ∧ s.zbBase.toNat + s.zbCap.toNat ≤ s.params.memSize ∧
        (0xFFFC : Word).toNat + s.zbCap.toNat ≤ s.params.memSize ∧ s.zbLen.toNat + s.arg1.toNat ≤ s.zbCap.toNat) :=
  ⟨⟨.inl rfl, rfl, by decide +kernel, by decide +kernel, by decide +kernel, by decide +kernel, by decide +kernel,
      by decide +kernel⟩,
    ⟨.inl rfl, rfl, by decide +kernel, by decide +kernel, by decide +kernel, by decide +kernel, fun _ => rfl,
      by decide +kernel⟩, by decide +kernel⟩

/-- Two memories that differ only beyond the source bytes. -/
theorem witness_UnreadBytesDoNotMatter :
    Memory.wf (setByte grayImage.mem 0x106 9) ∧
    (∀ k < 2 * (bytesPerLine ⟨2, 2, .gray, 8⟩ + 1),
      memByte (setByte grayImage.mem 0x106 9) (0x100 + k) = memByte grayImage.mem (0x100 + k)) ∧
    setByte grayImage.mem 0x106 9 ≠ grayImage.mem := by decide +kernel

theorem witness_ConvIsIdempotent :
    Memory.wf (convImageState alphaCfg [0x40] 8).mem ∧ ConvReady (convImageState alphaCfg [0x40] 8) ⟨2, 1, .palette, 1⟩ ∧
    0x100 + 1 * bytesPerLine ⟨2, 1, .palette, 1⟩ ≤ 0x400 :=
  ⟨by decide +kernel, witness_ConvPalettePixels.2.1, by decide +kernel⟩

/-! ### A state that meets the invariant with everything in use -/

/-- A body state with a listed memory, an open stream, a palette and an alpha table. -/
def richState : State := { streamState .body idatChunk with cfg := alphaCfg, result := 7, status := ⟨false, true, false, false, 0⟩ }

theorem alphaCfg_inv : ConfigInv alphaCfg where
  hdrLegal := by decide +kernel
  plteMode := by decide +kernel
  trnsMode := by decide +kernel
  trnsCountPalette := by decide +kernel
  trnsCountKey := by decide +kernel
  trnsNone := by decide +kernel
  plteNone := by decide +kernel
  plteCountLe := by decide +kernel
  trnsCountLe := by decide +kernel
  paletteTail := by decide +kernel
  alphaTail := by decide +kernel

theorem richState_inv : BlockInv richState where
  memWf := by decide +kernel
  memInRange := by decide +kernel
  ptrLeEnd := by decide +kernel
  endInMem := by decide +kernel
  busyLatch := rfl
  cmdLatch := fun _ h => nomatch h
  busyClear := fun h => nomatch h
  noError := fun _ => ⟨rfl, rfl⟩
  errorCodes := fun h => nomatch h
  resultByte := by decide
  seqHeader := fun _ => rfl
  seqDone := fun h => nomatch h
  cfgInv := alphaCfg_inv

theorem richState_accepts_inv (w : Word) : BlockInv (acceptCommand richState w) where
  memWf := richState_inv.memWf
  memInRange := richState_inv.memInRange
  ptrLeEnd := richState_inv.ptrLeEnd
  endInMem := richState_inv.endInMem
  busyLatch := rfl
  cmdLatch := fun _ h => by injection h
  busyClear := fun _ => ⟨rfl, rfl⟩
  noError := fun _ => ⟨rfl, rfl⟩
  errorCodes := fun h => nomatch h
  resultByte := richState_inv.resultByte
  seqHeader := richState_inv.seqHeader
  seqDone := richState_inv.seqDone
  cfgInv := richState_inv.cfgInv

theorem witness_RegistersEachCommandWrites :
    answers (exec .frChunk richState) false ∧ answers (exec (.sample 8) richState) false ∧
    answers (exec .conv richState) true :=
  ⟨by decide +kernel, by decide +kernel, by decide +kernel⟩

theorem witness_ErrorsArePrecise :
    answers (exec .frChunk (streamState .body (idatChunk.set 8 0x79))) true ∧ answers (exec .conv richState) true :=
  ⟨by decide +kernel, by decide +kernel⟩

theorem witness_CompletionStatus : answers (exec .sreset richState) false ∧ answers (exec .conv richState) true :=
  ⟨by decide +kernel, by decide +kernel⟩

theorem witness_ErrorsEachCommandCanRaise :
    Instr.wellFormed .conv = true ∧ BlockInv richState ∧ answers (exec .conv richState) true :=
  ⟨rfl, richState_inv, by decide +kernel⟩

theorem witness_CmdWriteIsAcceptedOrLost :
    ((hostTurn (.writeReg 0x00C 4 0x10)).turns = .host (.writeReg (State.reset.params.regBase + 0x00C) 4 0x10) :: [] ∧
      (hostTurn (.writeReg 0x00C 4 0x10)).status.busy = false) ∧
    ((busyTurn (.writeReg 0x00C 4 0x13)).turns = .host (.writeReg (State.reset.params.regBase + 0x00C) 4 0x13) :: [] ∧
      (busyTurn (.writeReg 0x00C 4 0x13)).status.busy = true) := by decide

theorem witness_OverrunStaysUntilCleared :
    let s : State := { hostTurn (.writeReg 0x008 4 0x8) with status := ⟨false, true, false, true, 0⟩ }
    s.status.overrun = true ∧ steps s (fun t => t.status.overrun = false) = true := by decide

/-- The same by the engine's move on the word of `SRESET`. -/
theorem witness_OverrunStaysUntilCleared_sreset :
    let s : State := { latched 0x1 with status := ⟨true, false, false, true, 0⟩ }
    s.status.overrun = true ∧ s.turns = [] ∧ steps s (fun t => t.status.overrun = false) = true := by decide

theorem witness_StatusIsWriteOneToClear :
    (busyTurn (.writeReg 0x008 4 0xA)).turns = .host (.writeReg (State.reset.params.regBase + 0x008) 4 0xA) :: [] ∧
    BlockInv (acceptCommand richState 0x10) ∧ (acceptCommand richState 0x10).status.busy = true :=
  ⟨by decide, richState_accepts_inv _, rfl⟩

theorem witness_InterruptLineFollowsDone :
    answers (exec .nop richState) false ∧
    answers (step (hostTurn (.writeReg 0x00C 4 0x10))) false ∧
    answers (step (hostTurn (.writeReg 0x008 4 0x2))) false ∧ (0x2#32).getLsbD 1 = true ∧
    answers (step (hostTurn (.writeReg 0x004 4 0x0))) false ∧ (0x0#32).getLsbD 0 = false :=
  by decide +kernel

/-- The last register offset, a width of 2 bytes and an odd offset; while busy, the first offset after `CMD`. -/
theorem witness_UndefinedHostAccessesAreRefused :
    0xFFC < 0x1000 ∧ (hostTurn (.readReg 0xFFC 2)).turns = .host (.readReg (State.reset.params.regBase + 0xFFC) 2) :: [] ∧
    (hostTurn (.writeReg 0x00E 4 0)).turns = .host (.writeReg (State.reset.params.regBase + 0x00E) 4 0) :: [] ∧ 0x00E % 4 ≠ 0 ∧
    (busyTurn (.readReg 0x010 4)).status.busy = true ∧
    (busyTurn (.readReg 0x010 4)).turns = .host (.readReg (State.reset.params.regBase + 0x010) 4) :: [] ∧
    (busyTurn (.writeReg 0x000 4 0)).turns = .host (.writeReg (State.reset.params.regBase + 0x000) 4 0) :: [] ∧
    (busyTurn (.readMem 0)).turns = .host (.readMem 0) :: [] ∧ (busyTurn (.writeMem 0 1)).turns = .host (.writeMem 0 1) :: [] := by
  decide

theorem witness_RegisterWindowReads : richState.status.busy = false ∧ (latched 0x10).status.busy = true := ⟨rfl, rfl⟩

theorem witness_RegisterWindowWrites :
    richState.status.busy = false ∧ 0x020 % 4 = 0 ∧ 0x020 < 0x1000 ∧
    0x020 ∉ [0x004, 0x008, 0x00C, 0x010, 0x014, 0x018, 0x01C, 0x030, 0x070, 0x074, 0x078] := by decide

/-- The last cell of data memory, and the first address past it. -/
theorem witness_DataMemoryBytePort :
    richState.status.busy = false ∧ Memory.wf richState.mem ∧ 0xFFFF < richState.params.memSize ∧
    richState.params.memSize ≤ 0x10000 ∧ (hostTurn (.readMem 0xFFFF)).turns = .host (.readMem 0xFFFF) :: [] := by
  decide +kernel

theorem witness_StepKeepsTheInvariant :
    BlockInv (acceptCommand richState 0x22) ∧ answers (step (acceptCommand richState 0x22)) false :=
  ⟨richState_accepts_inv _, by decide +kernel⟩

/-- A command word and a word that is no command. -/
theorem witness_EveryAcceptedCommandCompletes :
    (BlockInv (acceptCommand richState 0x50) ∧ (acceptCommand richState 0x50).latch = some 0x50 ∧
      (acceptCommand richState 0x50).turns = []) ∧
    (BlockInv (acceptCommand richState 0xFFFFFFFF) ∧ (acceptCommand richState 0xFFFFFFFF).latch = some 0xFFFFFFFF) :=
  ⟨⟨richState_accepts_inv _, rfl, rfl⟩, richState_accepts_inv _, rfl⟩

theorem witness_CommandsStopOnlyOutsideTheInvariant :
    (let s : State := { streamState .expectSig [] with inEnd := 0x10001 };
      s.params.memSize < s.inEnd.toNat ∧ s.seq.state = .expectSig) ∧
    (let s : State := { withArgs [] 0 0 0 0 with cfg := headerCfg 1 1 3 0 };
      s.cfg.valid.hdr = true ∧ imageShape s.cfg = none ∧ s.seq.state = .idle ∧
        s.arg0.toNat + s.arg1.toNat ≤ s.params.memSize ∧ s.arg2.toNat + s.arg3.toNat ≤ s.params.memSize) ∧
    (let s : State := { streamState .body trnsChunk with cfg := headerCfg 1 1 8 1 };
      s.cfg.valid.hdr = true ∧ s.cfg.hdrFmt.color ∉ ([0, 2, 3, 4, 6] : List Byte) ∧
        s.arg0.toNat + s.arg1.toNat ≤ s.params.memSize ∧ s.seq.state = .body ∧ s.seq.seenTrns = false ∧
        ChunkSound s 2 0x74524E53) :=
  have h := trns_sound .body
  ⟨by decide +kernel, by decide +kernel, by decide, by decide, by decide, rfl, rfl,
    ⟨⟨h.stream, h.len_eq, h.tag_eq, h.len_le, h.fits⟩, h.crc⟩⟩

end Sys2Proof.Tests
end

section
/-! Settles O41 and O60 (00_scope.md R15, R16, R13): where the output of `DEFILT`, `CONV` and `ZB.APPEND` goes does not
change it, and the image quantities and big-endian reads written out. -/

namespace Sys2Proof.Machine

/-! ### The image quantities and the big-endian reads -/

/-- A configuration describes an image exactly when its colour code names a mode and its depth is legal for that mode
(42_loaders.md R272). -/
theorem imageShape_eq_some_iff (c : ImageConfig) (sh : ImageShape) :
    imageShape c = some sh ↔
      sh.width = c.hdrWidth.toNat ∧ sh.height = c.hdrHeight.toNat ∧ sh.depth = c.hdrFmt.depth.toNat ∧
        colorModeOf c.hdrFmt.color = some sh.mode ∧ depthLegal sh.mode sh.depth = true := by
  constructor
  · intro h
    obtain ⟨hmode, hlegal, hd, hw, hh⟩ := imageShape_eq_some h
    exact ⟨hw, hh, hd, hmode, hlegal⟩
  · obtain ⟨w, h, mode, d⟩ := sh
    rintro ⟨rfl, rfl, rfl, hmode, hlegal⟩
    simp [imageShape, hmode, show depthLegal mode c.hdrFmt.depth.toNat = true from hlegal]

/-- The 15 legal pairs of a colour code and a depth, with the mode of each code (00_scope.md R9, 42_loaders.md R272). -/
theorem colorMode_depthLegal_iff (code : Byte) (mode : ColorMode) (d : Nat) :
    colorModeOf code = some mode ∧ depthLegal mode d = true ↔
      mode = .gray ∧ code = 0 ∧ d ∈ [1, 2, 4, 8, 16] ∨ mode = .rgb ∧ code = 2 ∧ d ∈ [8, 16] ∨
        mode = .palette ∧ code = 3 ∧ d ∈ [1, 2, 4, 8] ∨ mode = .grayAlpha ∧ code = 4 ∧ d ∈ [8, 16] ∨
        mode = .rgba ∧ code = 6 ∧ d ∈ [8, 16] := by
  rw [colorModeOf_eq_some_iff, depthLegal_iff]
  cases mode <;> simp

/-- `bytes_per_line` is the least number of bytes that holds a row's bits (00_scope.md R16). -/
theorem bytesPerLine_le_iff (sh : ImageShape) (n : Nat) :
    bytesPerLine sh ≤ n ↔ sh.width * channels sh.mode * sh.depth ≤ 8 * n := by
  unfold bytesPerLine
  omega

theorem bytesPerPixel_of_depth_lt {sh : ImageShape} (h : sh.depth < 8) : bytesPerPixel sh = 1 := if_pos h

theorem bytesPerPixel_of_le_depth {sh : ImageShape} (h : 8 ≤ sh.depth) :
    bytesPerPixel sh = channels sh.mode * (sh.depth / 8) := if_neg (Nat.not_lt.mpr h)

/-- A byte appended below a word: the word's bits move up by one byte. -/
theorem toNat_append_byte {n : Nat} (v : BitVec n) (b : Byte) : (v ++ b).toNat = 256 * v.toNat + b.toNat := by
  rw [BitVec.toNat_append, ← Nat.shiftLeft_add_eq_or_of_lt b.isLt, Nat.shiftLeft_eq, Nat.mul_comm]

/-- `BE16`: the byte at the lowest address is the most significant (20_memory.md R105, R106). -/
theorem be16_toNat (m : Memory) (a : Nat) :
    (be16 m a).toNat = 256 * (memByte m a).toNat + (memByte m (a + 1)).toNat :=
  toNat_append_byte _ _

/-- `BE32`: the byte at the lowest address is the most significant (20_memory.md R103, R104). -/
theorem be32_toNat (m : Memory) (a : Nat) :
    (be32 m a).toNat = 16777216 * (memByte m a).toNat + 65536 * (memByte m (a + 1)).toNat +
      256 * (memByte m (a + 2)).toNat + (memByte m (a + 3)).toNat := by
  unfold be32
  rw [toNat_append_byte, toNat_append_byte, toNat_append_byte]
  omega

/-- Settles O60: the shape exists exactly for the legal pairs, and each quantity by its own lemma. -/
theorem imageQuantitiesAndFieldReads : Obligations.ImageQuantitiesAndFieldReads := by
  refine ⟨fun c sh => ?_, fun sh => ?_, fun m a => ⟨be16_toNat m a, be32_toNat m a⟩⟩
  · rw [imageShape_eq_some_iff, colorMode_depthLegal_iff]
  · exact ⟨rfl, bytesPerLine_le_iff sh, bytesPerPixel_of_depth_lt, bytesPerPixel_of_le_depth⟩

/-! ### The same output at two destinations -/

/-- The same bytes written at two places read back the same, whatever stood at either place (00_scope.md R15). -/
theorem memByte_memWrite_same_bytes {m m' : Memory} (h : Memory.wf m) (h' : Memory.wf m') (a a' : Nat)
    (bs : List Byte) {k : Nat} (hk : k < bs.length) :
    memByte (memWrite m a bs) (a + k) = memByte (memWrite m' a' bs) (a' + k) := by
  rw [memByte_memWrite_inside h a bs hk, memByte_memWrite_inside h' a' bs hk]

/-- Scanlines that were read are as many as were asked for, each of `bpl` filtered bytes (43_defilter.md R310). -/
theorem readScanlines_ok_lengths {m : Memory} {src bpl y k : Nat} {rows : List (FilterType × List Byte)}
    (h : readScanlines m src bpl y k = .ok rows) : rows.length = k ∧ ∀ r ∈ rows, r.2.length = bpl := by
  rcases readScanlines_cases m src bpl y k with ⟨rows', hok, hlen, hrows⟩ | ⟨i, -, herr, -⟩
  · obtain rfl := Except.ok.inj (hok.symm.trans h)
    refine ⟨hlen, fun r hr => ?_⟩
    obtain ⟨i, hi, rfl⟩ := List.mem_iff_getElem.mp hr
    rw [(hrows i hi).2, memRead_length]
  · rw [herr] at h
    cases h

/-- Scanlines whose tags are all at most 4 are read (43_defilter.md R320). -/
theorem readScanlines_of_tags_le {m : Memory} {src bpl k : Nat}
    (htags : ∀ y < k, (memByte m (src + y * (bpl + 1))).toNat ≤ 4) :
    ∃ rows, readScanlines m src bpl 0 k = .ok rows := by
  rcases readScanlines_cases m src bpl 0 k with ⟨rows, hok, -⟩ | ⟨i, hi, -, hbad, -⟩
  · exact ⟨rows, hok⟩
  · rw [Nat.zero_add] at hbad
    exact absurd (htags i hi) (Nat.not_le.mpr hbad)

/-- `DEFILT` once its checks pass: it completes, with the rows reconstructed from the memory it began with at its
destination (43_defilter.md R320). -/
theorem exec_defilt_of_ready {s : State} {sh : ImageShape} (hr : DefiltReady s sh)
    {rows : List (FilterType × List Byte)}
    (hrows : readScanlines s.mem s.arg0.toNat (bytesPerLine sh) 0 sh.height = .ok rows) :
    exec .defilt s = .next (complete
      { s with mem := memWrite s.mem s.arg2.toNat (reconRows (bytesPerPixel sh) [] rows) }) := by
  have himage : defiltImage s sh =
      .ok { s with mem := memWrite s.mem s.arg2.toNat (reconRows (bytesPerPixel sh) [] rows) } := by
    simp [defiltImage, srcLen, dstCap, srcAddr, dstAddr, hrows, Nat.not_lt.mpr hr.enough, Nat.not_lt.mpr hr.room]
  have hbody : defiltBody s = defiltImage s sh := by
    simp [defiltBody, srcLen, dstCap, srcAddr, dstAddr, (streamClosed_iff s).mpr hr.closed, hr.header,
      (inMem_iff _ _ _).mpr hr.srcInMem, (inMem_iff _ _ _).mpr hr.dstInMem, hr.shape]
  rw [exec, execDefilt, hbody, himage, finish_ok]

/-- `CONV` once its checks pass: it completes, with the pixels converted from the memory it began with at its destination
(44_convert.md R360). -/
theorem exec_conv_of_ready {s : State} {sh : ImageShape} (hr : ConvReady s sh) :
    exec .conv s = .next (complete
      { s with mem := memWrite s.mem s.arg2.toNat (convRows s.cfg s.mem sh s.arg0.toNat 0 sh.height) }) := by
  have himage : convImage s sh =
      .ok { s with mem := memWrite s.mem s.arg2.toNat (convRows s.cfg s.mem sh s.arg0.toNat 0 sh.height) } := by
    rcases convImage_cases s sh with ⟨-, hshort⟩ | ⟨-, hmode, hplte⟩ | ⟨-, hsmall⟩ | ⟨-, -, -, hok⟩
    · exact absurd hr.enough (Nat.not_le.mpr hshort)
    · exact absurd hplte (by simp [hr.palette hmode])
    · exact absurd hr.room (Nat.not_le.mpr hsmall)
    · exact hok
  have hbody : convBody s = convImage s sh := by
    simp [convBody, srcLen, dstCap, srcAddr, dstAddr, (streamClosed_iff s).mpr hr.closed, hr.header,
      (inMem_iff _ _ _).mpr hr.srcInMem, (inMem_iff _ _ _).mpr hr.dstInMem, hr.shape]
  rw [exec, execConv, hbody, himage, finish_ok]

/-- `ZB.APPEND` once its checks pass: it completes, with the payload bytes of the memory it began with appended to the
buffer (42_loaders.md R278, R279). -/
theorem exec_zbAppend_of_fits {s : State} (hsrc : s.arg0.toNat + s.arg1.toNat ≤ s.params.memSize)
    (hbuf : s.zbBase.toNat + s.zbCap.toNat ≤ s.params.memSize)
    (hroom : s.zbLen.toNat + s.arg1.toNat ≤ s.zbCap.toNat) :
    exec .zbAppend s = .next (complete { s with
      mem := memWrite s.mem (s.zbBase.toNat + s.zbLen.toNat) (memRead s.mem s.arg0.toNat s.arg1.toNat)
      zbLen := BitVec.ofNat 32 (s.zbLen.toNat + s.arg1.toNat) }) := by
  have hbody : onPayload zbAppend s = zbAppend s s.arg0.toNat s.arg1.toNat := by
    simp [onPayload, srcAddr, srcLen, (inMem_iff _ _ _).mpr hsrc]
  rw [exec, execZbAppend, hbody, zbAppend]
  simp [(inMem_iff _ _ _).mpr hbuf, Nat.not_lt.mpr hroom]

/-- Settles O41: each command's output is a function of the memory it began with, written as one list at its destination,
and a list written over a canonical memory reads back wherever it stands. -/
theorem outputDoesNotDependOnOverlap : Obligations.OutputDoesNotDependOnOverlap := by
  refine ⟨fun s sh dst hwf hs hu => ?_, fun s sh dst hwf hs hu => ?_, fun s dst hwf hsrc hbuf hdst hroom => ?_⟩
  · obtain ⟨rows, hrows⟩ := readScanlines_of_tags_le hs.tags
    obtain ⟨hcount, hbytes⟩ := readScanlines_ok_lengths hrows
    have hlen := reconRows_length (bytesPerPixel sh) _ [] rows hbytes
    rw [hcount] at hlen
    exact ⟨_, _, exec_defilt_of_ready hs hrows, exec_defilt_of_ready hu hrows,
      fun k hk => memByte_memWrite_same_bytes hwf hwf _ _ _ (hlen ▸ hk)⟩
  · have hlen : (convRows s.cfg s.mem sh s.arg0.toNat 0 sh.height).length = sh.width * sh.height * 4 := by
      rw [convRows_length]
      ring
    exact ⟨_, _, exec_conv_of_ready hs, exec_conv_of_ready hu,
      fun k hk => memByte_memWrite_same_bytes hwf hwf _ _ _ (hlen ▸ hk)⟩
  · have hlen := memRead_length s.mem s.arg0.toNat s.arg1.toNat
    exact ⟨_, _, exec_zbAppend_of_fits hsrc hbuf hroom,
      exec_zbAppend_of_fits (s := { s with zbBase := dst }) hsrc hdst hroom,
      fun k hk => memByte_memWrite_same_bytes hwf hwf _ _ _ (hlen.symm ▸ hk)⟩

end Sys2Proof.Machine
end

section
/-! Settles O56 and O57 (10_state.md R43, R60, R66): the invariant holds after reset, every command body answers within
it and never stops there, and so every step keeps it. -/

namespace Sys2Proof.Machine

theorem toNat_ofNat_of_lt {w n : Nat} (h : n < 2 ^ w) : (BitVec.ofNat w n).toNat = n := by
  rw [BitVec.toNat_ofNat, Nat.mod_eq_of_lt h]

/-! ### The configuration registers -/

protected theorem ConfigInv.cleared : ConfigInv ImageConfig.cleared where
  hdrLegal := nofun
  plteMode := nofun
  trnsMode := nofun
  trnsCountPalette := nofun
  trnsCountKey := nofun
  trnsNone _ := rfl
  plteNone _ := rfl
  plteCountLe := Nat.zero_le _
  trnsCountLe := Nat.zero_le _
  paletteTail i _ := tableAt_replicate _ i
  alphaTail i _ := tableAt_replicate _ i

/-- A header that passed its checks over a cleared configuration (42_loaders.md R271, R273). -/
theorem ConfigInv.header {w h : Word} {f : HdrFmt} {il : Byte} (hc : headerCheck w h f il = none) :
    ConfigInv { ImageConfig.cleared with
      valid := ⟨true, false, false⟩, hdrWidth := w, hdrHeight := h, hdrFmt := f, hdrIl := il } :=
  { ConfigInv.cleared with
    hdrLegal := fun _ => by
      obtain ⟨hw, hh, hcomp, hfilt, hil, mode, hmode, hdepth⟩ := headerCheck_eq_none.mp hc
      exact ⟨hw, hh, hcomp, hfilt, hil, by simp [imageShape, hmode, hdepth]⟩
    plteMode := nofun
    trnsMode := nofun
    trnsCountPalette := nofun
    trnsCountKey := nofun }

/-- At most 256 palette entries written over a palette-mode configuration (42_loaders.md R275). -/
theorem ConfigInv.palette {c : ImageConfig} (hinv : ConfigInv c) (hv : c.valid.hdr = true) (hcolor : c.hdrFmt.color = 3)
    {entries : List Rgb} {k : Nat} (hlen : entries.length = k) (hk : k ≤ 256) :
    ConfigInv { c with
      palette := tableOf ⟨0, 0, 0⟩ entries, plteCount := BitVec.ofNat 9 k, valid := { c.valid with plte := true } } :=
  have hcount : (BitVec.ofNat 9 k).toNat = k := toNat_ofNat_of_lt (by omega)
  { hinv with
    plteMode := fun _ => ⟨hv, hcolor⟩
    plteNone := nofun
    plteCountLe := hcount.le.trans hk
    paletteTail := fun i hi => by
      have hi' : entries.length ≤ i.toNat := hlen.le.trans (hcount.ge.trans hi)
      rw [tableAt_tableOf, List.getD_eq_default _ _ hi'] }

/-- The transparency registers written over a configuration of a mode that has them (42_loaders.md R277): no alpha entry
in the key modes, 1 to 256 in Palette mode. -/
theorem ConfigInv.transparency {s : State} (hinv : ConfigInv s.cfg) (k0 k1 k2 : BitVec 16) {al : List Byte}
    (hv : s.cfg.valid.hdr = true)
    (hcolor : s.cfg.hdrFmt.color = 0 ∨ s.cfg.hdrFmt.color = 2 ∨ s.cfg.hdrFmt.color = 3)
    (hpal : s.cfg.hdrFmt.color = 3 → 1 ≤ al.length) (hkey : s.cfg.hdrFmt.color ≠ 3 → al = [])
    (hle : al.length ≤ 256) : ConfigInv (writeTransparency s k0 k1 k2 al).cfg :=
  have hcount : (BitVec.ofNat 9 al.length).toNat = al.length := toNat_ofNat_of_lt (by omega)
  { hinv with
    trnsMode := fun _ => ⟨hv, hcolor⟩
    trnsCountPalette := fun _ h => (hpal h).trans hcount.ge
    trnsCountKey := fun _ h => by simp [writeTransparency, hkey h]
    trnsNone := nofun
    trnsCountLe := hcount.le.trans hle
    alphaTail := fun i hi => by
      have hi' : al.length ≤ i.toNat := hcount.ge.trans hi
      rw [writeTransparency, tableAt_tableOf, List.getD_eq_default _ _ hi'] }

/-! ### The updates of the state -/

/-- A hardware reset gives a good state over every canonical memory (10_state.md R65). -/
protected theorem BlockInv.resetWith {p : Config.Params} {m : Memory} (hwf : Memory.wf m)
    (hrange : ∀ c ∈ m, c.1 < p.memSize) : BlockInv (State.resetWith p m) where
  memWf := hwf
  memInRange := hrange
  ptrLeEnd := Nat.le_refl _
  endInMem := Nat.zero_le _
  busyLatch := rfl
  cmdLatch := nofun
  busyClear := nofun
  noError _ := ⟨rfl, rfl⟩
  errorCodes := nofun
  resultByte := show 0 < 256 by decide
  seqHeader := by simp [State.resetWith]
  seqDone := nofun
  cfgInv := ConfigInv.cleared

/-- Settles O56: both states are a hardware reset over a canonical memory inside its size. -/
theorem resetMeetsTheInvariant : Obligations.ResetMeetsTheInvariant :=
  ⟨.resetWith Memory.wf_nil (by simp), fun p drawn =>
    .resetWith (drawMemory_wf drawn p.memSize) fun _ => mem_drawMemory⟩

protected theorem BlockInv.resetRegisters {s : State} (h : BlockInv s) : BlockInv (resetRegisters s) :=
  { BlockInv.resetWith h.memWf h.memInRange with }

/-- The invariant says nothing of the schedule. -/
theorem BlockInv.withTurns {s : State} (h : BlockInv s) (ts : List Turn) : BlockInv { s with turns := ts } := { h with }

/-- The CRC registers may hold any word (10_state.md R40, R41). -/
theorem BlockInv.withCrc {s : State} (h : BlockInv s) (c o : Word) :
    BlockInv { s with crcState := c, crcOut := o } := { h with }

/-- One byte written inside data memory. -/
protected theorem BlockInv.setByte {s : State} (h : BlockInv s) {a : Nat} (ha : a < s.params.memSize) (b : Byte) :
    BlockInv { s with mem := setByte s.mem a b } :=
  { h with
    memWf := setByte_wf h.memWf a b
    memInRange := fun c hc => by
      rcases mem_setByte hc with hc | rfl
      · exact h.memInRange c hc
      · exact ha }

/-- A range of bytes written inside data memory. -/
protected theorem BlockInv.memWrite {s : State} (h : BlockInv s) {a : Nat} {bs : List Byte}
    (ha : a + bs.length ≤ s.params.memSize) : BlockInv { s with mem := memWrite s.mem a bs } :=
  { h with
    memWf := memWrite_wf h.memWf a bs
    memInRange := fun c hc => by
      rcases mem_memWrite hc with hc | ⟨-, hc⟩
      · exact h.memInRange c hc
      · exact hc.trans_le ha }

/-- A good configuration in place of another: a header that was valid stays valid. -/
theorem BlockInv.withCfg {s : State} (h : BlockInv s) {c : ImageConfig} (hc : ConfigInv c)
    (hhdr : s.cfg.valid.hdr = true → c.valid.hdr = true) : BlockInv { s with cfg := c } :=
  { h with
    seqHeader := fun hq => hhdr (h.seqHeader hq)
    cfgInv := hc }

/-- `RESULT` takes a byte, zero-extended (10_state.md R39). -/
theorem BlockInv.withResult {s : State} (h : BlockInv s) (b : Byte) :
    BlockInv { s with result := b.zeroExtend 32 } :=
  { h with
    resultByte := by
      have hb := b.isLt
      simp only [BitVec.truncate_eq_setWidth, BitVec.toNat_setWidth]
      omega }

protected theorem BlockInv.openStream {s : State} (h : BlockInv s) {a n : Nat} (hin : a + n ≤ s.params.memSize) :
    BlockInv (openStream s a n) :=
  have hsize := s.params.memSize_le
  have ha : (BitVec.ofNat 32 a).toNat = a := toNat_ofNat_of_lt (by omega)
  have hn : (BitVec.ofNat 32 (a + n)).toNat = a + n := toNat_ofNat_of_lt (by omega)
  { h with
    ptrLeEnd := by rw [openStream_inPtr, openStream_inEnd, ha, hn]; omega
    endInMem := hn.le.trans hin
    seqHeader := by simp
    seqDone := nofun
    cfgInv := ConfigInv.cleared }

/-- The stream moves on inside its bounds. -/
theorem BlockInv.withPtr {s : State} (h : BlockInv s) {p : Nat} (hp : p ≤ s.inEnd.toNat) :
    BlockInv { s with inPtr := BitVec.ofNat 32 p } :=
  have hend := s.inEnd.isLt
  { h with ptrLeEnd := (toNat_ofNat_of_lt (by omega)).le.trans hp }

/-- A chunk accepted while a header is valid, and an end marker only after image data (41_framer.md R236, R238). -/
protected theorem BlockInv.acceptChunk {s : State} (h : BlockInv s) {p len : Nat} {tag stored : Word} {cls : ChunkClass}
    (hfits : p + 12 + len ≤ s.inEnd.toNat) (hhdr : s.cfg.valid.hdr = true)
    (hend : cls = .endMarker → s.seq.seenIdat = true) : BlockInv (acceptChunk s p len tag stored cls) :=
  { h.withPtr hfits with
    seqHeader := fun _ => hhdr
    seqDone := fun hq => by
      rw [acceptChunk_seq] at hq ⊢
      cases cls with
      | endMarker => exact hend rfl
      | header => cases hq
      | imageData => rfl
      | noneYet | palette | transparency | other => exact h.seqDone hq }

/-! ### Acceptance and the completions -/

protected theorem BlockInv.acceptCommand {s : State} (h : BlockInv s) (w : Word) : BlockInv (acceptCommand s w) :=
  { h with
    busyLatch := rfl
    cmdLatch := fun _ hw => Option.some.inj hw
    busyClear := fun _ => ⟨rfl, rfl⟩
    noError := fun _ => ⟨rfl, rfl⟩
    errorCodes := nofun }

protected theorem BlockInv.complete {s : State} (h : BlockInv s) (herr : s.status.err = false) :
    BlockInv (complete s) :=
  { h with
    busyLatch := rfl
    cmdLatch := nofun
    busyClear := nofun
    noError := fun _ => ⟨rfl, (h.noError herr).2⟩
    errorCodes := nofun }

/-- `DecompressionFailed` alone has the code 7 (60_exceptions.md R401). -/
theorem errorCode_eq_seven_iff (e : ErrorKind) : errorCode e = 7 ↔ e = .decompressionFailed := by
  cases e <;> decide

protected theorem BlockInv.raiseError {s : State} (h : BlockInv s) {e : ErrorKind} (he : e ≠ .decompressionFailed)
    (info : Word) : BlockInv (raiseError s e info) :=
  { h with
    busyLatch := rfl
    cmdLatch := nofun
    busyClear := nofun
    noError := nofun
    errorCodes := fun _ => ⟨(errorCode_range e).1, (errorCode_range e).2, mt (errorCode_eq_seven_iff e).mp he⟩ }

protected theorem BlockInv.failStream {s : State} (h : BlockInv s) {e : ErrorKind} (he : e ≠ .decompressionFailed)
    (info : Word) : BlockInv (failStream s e info) :=
  { h.raiseError he info with
    seqHeader := by simp
    seqDone := nofun }

/-! ### The command bodies -/

/-- A body's answer in a good state: a good state with the parameters and no new error, or an error the block may raise,
but never a stop. -/
inductive KeepsInv (s : State) : Res State → Prop
  | ok {u : State} (inv : BlockInv u) (params : u.params = s.params) (err : u.status.err = s.status.err) :
    KeepsInv s (.ok u)
  | raise {e : ErrorKind} {info : Word} (he : e ≠ .decompressionFailed) : KeepsInv s (.raise e info)

theorem onPayload_keepsInv {body : State → Nat → Nat → Res State} {s : State}
    (hbody : ∀ a n, KeepsInv s (body s a n)) : KeepsInv s (onPayload body s) := by
  rcases onPayload_cases body s with ⟨-, hr⟩ | ⟨-, hr⟩
  · simp [hr, KeepsInv.raise]
  · rw [hr]
    exact hbody _ _

theorem headerLoad_keepsInv {s : State} (h : BlockInv s) (a n : Nat) : KeepsInv s (headerLoad s a n) := by
  rcases headerLoad_cases s a n with ⟨-, hc, hr⟩ | ⟨info, -, hr⟩
  · rw [hr]
    exact .ok (h.withCfg (.header hc) fun _ => rfl) rfl rfl
  · simp [hr, KeepsInv.raise]

theorem paletteLoad_keepsInv {s : State} (h : BlockInv s) (a n : Nat) : KeepsInv s (paletteLoad s a n) := by
  rcases paletteLoad_cases s a n with ⟨hv, hcolor, -, hn, hr⟩ | ⟨-, hr⟩ | ⟨-, hr | hr | hr⟩
  · rw [hr]
    exact .ok (h.withCfg (h.cfgInv.palette hv hcolor (paletteEntries_length _ _ _) (by omega)) id) rfl rfl
  all_goals simp [hr, KeepsInv.raise]

/-- A good state with a valid header has a known colour code (10_state.md R60). -/
theorem BlockInv.colorModeOf_ne_none {s : State} (h : BlockInv s) (hv : s.cfg.valid.hdr = true) :
    colorModeOf s.cfg.hdrFmt.color ≠ none := by
  obtain ⟨-, -, -, -, -, hshape⟩ := h.cfgInv.hdrLegal hv
  obtain ⟨sh, hsh⟩ := Option.isSome_iff_exists.mp hshape
  simp [(imageShape_eq_some hsh).1]

theorem trnsLoad_keepsInv {s : State} (h : BlockInv s) (a n : Nat) : KeepsInv s (trnsLoad s a n) := by
  rcases trnsLoad_cases s a n with ⟨t, hr, ht⟩ | ⟨-, hr⟩ | ⟨-, hr | hr | hr⟩ | ⟨hv, hnone, -⟩
  · obtain ⟨k0, k1, k2, al, rfl, hal⟩ := ht.loaded
    have hcfg : ConfigInv (writeTransparency s k0 k1 k2 al).cfg := by
      rcases hal with ⟨hc, rfl⟩ | ⟨hc, rfl⟩ | ⟨hc, rfl, hge, hle⟩
      · exact h.cfgInv.transparency k0 k1 k2 ht.hdr (.inl hc) (by simp [hc]) (fun _ => rfl) (by simp)
      · exact h.cfgInv.transparency k0 k1 k2 ht.hdr (.inr (.inl hc)) (by simp [hc]) (fun _ => rfl) (by simp)
      · exact h.cfgInv.transparency k0 k1 k2 ht.hdr (.inr (.inr hc)) (fun _ => hge) (absurd hc) hle
    rw [hr]
    exact .ok (h.withCfg hcfg id) rfl rfl
  · simp [hr, KeepsInv.raise]
  · simp [hr, KeepsInv.raise]
  · simp [hr, KeepsInv.raise]
  · simp [hr, KeepsInv.raise]
  · exact absurd hnone (h.colorModeOf_ne_none hv)

theorem zbAppend_keepsInv {s : State} (h : BlockInv s) (a n : Nat) : KeepsInv s (zbAppend s a n) := by
  rcases zbAppend_cases s a n with ⟨hbuf, hroom, hr⟩ | hr | hr
  · have hin : s.zbBase.toNat + s.zbLen.toNat + (memRead s.mem a n).length ≤ s.params.memSize := by
      rw [memRead_length]
      omega
    rw [hr]
    exact .ok { h.memWrite hin with } rfl rfl
  · simp [hr, KeepsInv.raise]
  · simp [hr, KeepsInv.raise]

theorem crcMemBody_keepsInv {s : State} (h : BlockInv s) : KeepsInv s (crcMemBody s) := by
  rcases crcMemBody_cases s with ⟨-, hr⟩ | ⟨-, hr⟩
  · rw [hr]
    exact .ok (h.withCrc _ _) rfl rfl
  · simp [hr, KeepsInv.raise]

theorem frStartBody_keepsInv {s : State} (h : BlockInv s) : KeepsInv s (frStartBody s) := by
  rcases frStartBody_cases s with ⟨hin, hr⟩ | ⟨-, hr⟩
  · rw [hr]
    exact .ok (h.openStream hin) rfl rfl
  · simp [hr, KeepsInv.raise]

theorem frSigBody_keepsInv {s : State} (h : BlockInv s) : KeepsInv s (frSigBody s) := by
  rcases frSigBody_cases s with ⟨hout, -⟩ | ⟨-, hp, hr⟩ | hr | hr
  · exact absurd h.endInMem (Nat.not_le.mpr hout)
  · rw [hr]
    exact .ok { h.withPtr hp with seqHeader := by simp, seqDone := nofun } rfl rfl
  · simp [hr, KeepsInv.raise]
  · simp [hr, KeepsInv.raise]

/-- A good state with a valid header describes an image (10_state.md R60). -/
theorem BlockInv.imageShape_ne_none {s : State} (h : BlockInv s) (hv : s.cfg.valid.hdr = true) :
    imageShape s.cfg ≠ none := by
  obtain ⟨-, -, -, -, -, hshape⟩ := h.cfgInv.hdrLegal hv
  exact Option.isSome_iff_ne_none.mp hshape

theorem defiltImage_keepsInv {s : State} (h : BlockInv s) {sh : ImageShape}
    (hdst : s.arg2.toNat + s.arg3.toNat ≤ s.params.memSize) : KeepsInv s (defiltImage s sh) := by
  rcases defiltImage_cases s sh with ⟨hr, -⟩ | ⟨hr, -⟩ | ⟨y, -, hr⟩ | ⟨rows, hrows, -, hroom, hr⟩
  · simp [hr, KeepsInv.raise]
  · simp [hr, KeepsInv.raise]
  · simp [hr, KeepsInv.raise]
  · obtain ⟨hcount, hbytes⟩ := readScanlines_ok_lengths hrows
    have hlen := reconRows_length (bytesPerPixel sh) _ [] rows hbytes
    rw [hcount] at hlen
    rw [hr]
    exact .ok (h.memWrite (by omega)) rfl rfl

theorem defiltBody_keepsInv {s : State} (h : BlockInv s) : KeepsInv s (defiltBody s) := by
  rcases defiltBody_cases s with ⟨hr, -⟩ | ⟨hr, -⟩ | ⟨hr, -⟩ | ⟨hr, -⟩ | ⟨-, hv, hnone⟩ | ⟨sh, -, -, hdst, hr⟩
  · simp [hr, KeepsInv.raise]
  · simp [hr, KeepsInv.raise]
  · simp [hr, KeepsInv.raise]
  · simp [hr, KeepsInv.raise]
  · exact absurd hnone (h.imageShape_ne_none hv)
  · rw [hr]
    exact defiltImage_keepsInv h hdst

theorem convImage_keepsInv {s : State} (h : BlockInv s) {sh : ImageShape}
    (hdst : s.arg2.toNat + s.arg3.toNat ≤ s.params.memSize) : KeepsInv s (convImage s sh) := by
  rcases convImage_cases s sh with ⟨hr, -⟩ | ⟨hr, -⟩ | ⟨hr, -⟩ | ⟨-, hroom, -, hr⟩
  · simp [hr, KeepsInv.raise]
  · simp [hr, KeepsInv.raise]
  · simp [hr, KeepsInv.raise]
  · have hlen : (convRows s.cfg s.mem sh s.arg0.toNat 0 sh.height).length = sh.width * sh.height * 4 := by
      rw [convRows_length]
      ring
    rw [hr]
    exact .ok (h.memWrite (by omega)) rfl rfl

theorem convBody_keepsInv {s : State} (h : BlockInv s) : KeepsInv s (convBody s) := by
  rcases convBody_cases s with ⟨hr, -⟩ | ⟨hr, -⟩ | ⟨hr, -⟩ | ⟨hr, -⟩ | ⟨-, hv, hnone⟩ | ⟨sh, -, -, hdst, hr⟩
  · simp [hr, KeepsInv.raise]
  · simp [hr, KeepsInv.raise]
  · simp [hr, KeepsInv.raise]
  · simp [hr, KeepsInv.raise]
  · exact absurd hnone (h.imageShape_ne_none hv)
  · rw [hr]
    exact convImage_keepsInv h hdst

theorem fltByteBody_keepsInv {s : State} (h : BlockInv s) (t : Byte) : KeepsInv s (fltByteBody t s) := by
  rcases fltByteBody_cases t s with ⟨-, hr⟩ | ⟨ft, -, hr⟩
  · simp [hr, KeepsInv.raise]
  · rw [hr]
    exact .ok (h.withResult _) rfl rfl

theorem sampleBody_keepsInv {s : State} (h : BlockInv s) (d : Byte) : KeepsInv s (sampleBody d s) := by
  rcases sampleBody_cases d s with ⟨-, hr⟩ | ⟨-, hr⟩ | ⟨-, -, hr⟩
  · simp [hr, KeepsInv.raise]
  · simp [hr, KeepsInv.raise]
  · rw [hr]
    exact .ok (h.withResult _) rfl rfl

/-! ### A chunk -/

theorem dispatchChunk_keepsInv {s : State} (h : BlockInv s) (cls : ChunkClass) (a n : Nat) :
    KeepsInv s (dispatchChunk cls s a n) := by
  cases cls with
  | header => exact headerLoad_keepsInv h a n
  | palette => exact paletteLoad_keepsInv h a n
  | transparency => exact trnsLoad_keepsInv h a n
  | imageData => exact zbAppend_keepsInv h a n
  | noneYet | endMarker | other => exact .ok h rfl rfl

/-- The CRC of the chunk at `IN_PTR` written to `CHUNK_CRC_CALC`, as `FR.CHUNK` does once the chunk is framed
(41_framer.md R234). -/
def calcChunkCrc (s : State) (len : Nat) : State := { s with chunkCrcCalc := crc32 (chunkBytes s s.inPtr.toNat len) }

protected theorem BlockInv.calcChunkCrc {s : State} (h : BlockInv s) (len : Nat) : BlockInv (calcChunkCrc s len) :=
  { h with }

/-- A loader leaves the stream and its sequencer alone, and after a header chunk a header is valid (41_framer.md
R237). -/
theorem dispatchChunk_ok {cls : ChunkClass} {s t : State} {a n : Nat} (h : dispatchChunk cls s a n = .ok t) :
    t.seq = s.seq ∧ t.inEnd = s.inEnd ∧ (cls = .header → t.cfg.valid.hdr = true) := by
  cases cls with
  | header =>
    rcases headerLoad_cases s a n with ⟨-, -, hr⟩ | ⟨info, -, hr⟩
    · obtain rfl := Res.ok.inj (hr.symm.trans h)
      exact ⟨rfl, rfl, fun _ => rfl⟩
    · cases hr.symm.trans h
  | palette =>
    rcases paletteLoad_cases s a n with ⟨-, -, -, -, hr⟩ | ⟨-, hr⟩ | ⟨-, hr | hr | hr⟩
    · obtain rfl := Res.ok.inj (hr.symm.trans h)
      exact ⟨rfl, rfl, nofun⟩
    all_goals cases hr.symm.trans h
  | transparency =>
    rcases trnsLoad_cases s a n with ⟨u, hr, hu⟩ | ⟨-, hr⟩ | ⟨-, hr | hr | hr⟩ | ⟨-, -, hr⟩
    · obtain rfl := Res.ok.inj (hr.symm.trans h)
      obtain ⟨k0, k1, k2, al, rfl, -⟩ := hu.loaded
      exact ⟨rfl, rfl, nofun⟩
    all_goals cases hr.symm.trans h
  | imageData =>
    rcases zbAppend_cases s a n with ⟨-, -, hr⟩ | hr | hr
    · obtain rfl := Res.ok.inj (hr.symm.trans h)
      exact ⟨rfl, rfl, nofun⟩
    all_goals cases hr.symm.trans h
  | noneYet | endMarker | other =>
    obtain rfl := Res.ok.inj h
    exact ⟨rfl, rfl, nofun⟩

/-- A framed chunk answers within the invariant: its place in the stream has made the header valid, or makes it so. -/
theorem frCheckCrc_keepsInv {s : State} (h : BlockInv s) (hq : s.seq.state = .expectIhdr ∨ s.seq.state = .body)
    {p len : Nat} (hfits : p + 12 + len ≤ s.inEnd.toNat) (tag stored : Word) :
    KeepsInv s (frCheckCrc s p len tag stored) := by
  have hdispatch := dispatchChunk_keepsInv h (classify tag) (p + 8) len
  rcases frCheckCrc_cases s p len tag stored with
    ⟨-, hr⟩ | ⟨-, info, -, hr⟩ | ⟨-, horder, ⟨t, ht, hr⟩ | ⟨e, info, he, hr⟩ | ⟨f, hf, -⟩⟩
  · simp [hr, KeepsInv.raise]
  · simp [hr, KeepsInv.raise]
  · rw [ht] at hdispatch
    obtain ⟨htinv, hparams, herr⟩ | - := hdispatch
    obtain ⟨hseq, hinEnd, hheader⟩ := dispatchChunk_ok ht
    have hhdr : t.cfg.valid.hdr = true := by
      rcases hq with hq | hq
      · exact hheader (checkOrder_expectIhdr hq horder)
      · exact htinv.seqHeader (.inl (hseq ▸ hq))
    have hend : classify tag = .endMarker → t.seq.seenIdat = true := by
      intro hcls
      rcases hq with hq | hq
      · cases hcls.symm.trans (checkOrder_expectIhdr hq horder)
      · obtain ⟨-, -, -, hidat⟩ := checkOrder_body hq horder
        exact hseq ▸ hidat hcls
    rw [hr]
    exact .ok (htinv.acceptChunk (hinEnd ▸ hfits) hhdr hend) hparams herr
  · rw [he] at hdispatch
    obtain - | hkind := hdispatch
    rw [hr]
    exact .raise hkind
  · rw [hf] at hdispatch
    cases hdispatch

/-! ### Commands and steps -/

/-- An outcome from a good state: no stop, the parameters kept, and a good state again when no error stood before
(acceptance has cleared it, 10_state.md R36). -/
def CompletesInInv (s : State) (o : Host.Outcome State Fault Refusal) : Prop :=
  ∃ t, o = .next t ∧ t.params = s.params ∧ (s.status.err = false → BlockInv t)

theorem finish_completesInInv {s : State} (h : BlockInv s) {r : Res State} (hr : KeepsInv s r) :
    CompletesInInv s (finish s r) := by
  cases hr with
  | ok hu hparams herr => exact ⟨_, rfl, hparams, fun h0 => hu.complete (herr.trans h0)⟩
  | raise he => exact ⟨_, rfl, rfl, fun _ => h.raiseError he _⟩

theorem finishFramer_completesInInv {s : State} (h : BlockInv s) {r : Res State} (hr : KeepsInv s r) :
    CompletesInInv s (finishFramer s r) := by
  cases hr with
  | ok hu hparams herr => exact ⟨_, rfl, hparams, fun h0 => hu.complete (herr.trans h0)⟩
  | raise he => exact ⟨_, rfl, rfl, fun _ => h.failStream he _⟩

theorem execSreset_completesInInv {s : State} (h : BlockInv s) : CompletesInInv s (execSreset s) :=
  have hreset := h.resetRegisters
  ⟨_, rfl, rfl, fun _ => BlockInv.complete { hreset with cmdLatch := nofun } rfl⟩

theorem execFrSig_completesInInv {s : State} (h : BlockInv s) : CompletesInInv s (execFrSig s) := by
  unfold execFrSig
  cases s.seq.state with
  | expectSig => exact finishFramer_completesInInv h (frSigBody_keepsInv h)
  | idle | expectIhdr | body | done | failed => exact finish_completesInInv h (.raise (by simp))

theorem frChunkOpen_completesInInv {s : State} (h : BlockInv s)
    (hq : s.seq.state = .expectIhdr ∨ s.seq.state = .body) : CompletesInInv s (frChunkOpen s) := by
  rcases frChunkOpen_cases s with ⟨hout, -⟩ | ⟨-, ⟨info, -, hr⟩ | ⟨-, hfits, hr⟩⟩
  · exact absurd h.endInMem (Nat.not_le.mpr hout)
  · exact ⟨_, hr, rfl, fun _ => h.failStream (by simp) info⟩
  · rw [hr]
    have hcalc := h.calcChunkCrc (be32 s.mem s.inPtr.toNat).toNat
    exact finishFramer_completesInInv hcalc (frCheckCrc_keepsInv hcalc hq hfits _ _)

theorem execFrChunk_completesInInv {s : State} (h : BlockInv s) : CompletesInInv s (execFrChunk s) := by
  unfold execFrChunk
  cases hq : s.seq.state with
  | idle | expectSig | failed => exact finish_completesInInv h (.raise (by simp))
  | done => exact finishFramer_completesInInv h (.raise (by simp))
  | expectIhdr => exact frChunkOpen_completesInInv h (.inl hq)
  | body => exact frChunkOpen_completesInInv h (.inr hq)

/-- Every command completes in every state of the invariant, and keeps it. -/
theorem exec_completesInInv {s : State} (h : BlockInv s) (i : Instr) : CompletesInInv s (exec i s) := by
  cases i with
  | nop => exact finish_completesInInv h (.ok h rfl rfl)
  | sreset => exact execSreset_completesInInv h
  | crcInit => exact finish_completesInInv h (.ok (h.withCrc Config.crcInit s.crcOut) rfl rfl)
  | crcByte b => exact finish_completesInInv h (.ok (h.withCrc (crcUpdate s.crcState b) s.crcOut) rfl rfl)
  | crcFinal =>
    exact finish_completesInInv h (.ok (h.withCrc s.crcState (s.crcState ^^^ Config.crcXorOut)) rfl rfl)
  | crcMem => exact finish_completesInInv h (crcMemBody_keepsInv h)
  | frStart => exact finish_completesInInv h (frStartBody_keepsInv h)
  | frSig => exact execFrSig_completesInInv h
  | frChunk => exact execFrChunk_completesInInv h
  | ldHdr => exact finish_completesInInv h (onPayload_keepsInv (headerLoad_keepsInv h))
  | ldPlte => exact finish_completesInInv h (onPayload_keepsInv (paletteLoad_keepsInv h))
  | ldTrns => exact finish_completesInInv h (onPayload_keepsInv (trnsLoad_keepsInv h))
  | zbAppend => exact finish_completesInInv h (onPayload_keepsInv (zbAppend_keepsInv h))
  | defilt => exact finish_completesInInv h (defiltBody_keepsInv h)
  | fltByte t => exact finish_completesInInv h (fltByteBody_keepsInv h t)
  | sample d => exact finish_completesInInv h (sampleBody_keepsInv h d)
  | conv => exact finish_completesInInv h (convBody_keepsInv h)

theorem engineStep_keepsInv {s t : State} (h : BlockInv s) (hstep : engineStep s = .next t) :
    BlockInv t ∧ t.params = s.params := by
  rcases engineStep_cases hstep with ⟨-, rfl⟩ | ⟨w, e, -, -, rfl⟩ | ⟨w, i, hlatch, -, hexec⟩
  · exact ⟨h, rfl⟩
  · exact ⟨h.raiseError (by simp) _, rfl⟩
  · obtain ⟨u, hu, hparams, hinv⟩ := exec_completesInInv h i
    obtain rfl := Host.Outcome.next.inj (hu.symm.trans hexec)
    have hbusy : s.status.busy = true := by rw [h.busyLatch, hlatch]; rfl
    exact ⟨hinv (h.busyClear hbusy).2, hparams⟩

theorem writeCmd_keepsInv {s : State} (h : BlockInv s) (w : Word) : BlockInv (writeCmd s w) := by
  unfold writeCmd
  split
  · exact { h with }
  · exact h.acceptCommand w

theorem writeReg_keepsInv {s : State} (h : BlockInv s) (r : Reg) (v : Word) :
    BlockInv (writeReg s r v) ∧ (writeReg s r v).params = s.params := by
  cases r with
  | cmd =>
    refine ⟨writeCmd_keepsInv h v, ?_⟩
    rw [writeReg, writeCmd]
    split <;> rfl
  | status =>
    refine ⟨{ h with busyClear := fun hb => ?_ }, rfl⟩
    obtain ⟨hdone, herr⟩ := h.busyClear hb
    exact ⟨by simp [writeReg, hdone], herr⟩
  | ctrl | arg0 | arg1 | arg2 | arg3 | crcState | zbBase | zbCap | zbLen => exact ⟨{ h with }, rfl⟩
  | _ => exact ⟨h, rfl⟩

theorem hostStep_keepsInv {a : HostAction} {s t : State} (h : BlockInv s) (hstep : hostStep a s = .next t) :
    BlockInv t ∧ t.params = s.params := by
  rcases hostStep_cases hstep with ⟨off, -, -, -, -, ⟨-, rfl⟩ | ⟨r, -, rfl⟩⟩ |
    ⟨off, v, -, -, -, -, ⟨-, rfl⟩ | ⟨r, -, rfl⟩⟩ | ⟨addr, -, -, -, rfl⟩ | ⟨addr, b, -, -, hin, rfl⟩ | ⟨-, rfl⟩
  · exact ⟨{ h with }, rfl⟩
  · exact ⟨{ h with }, rfl⟩
  · exact ⟨h, rfl⟩
  · exact writeReg_keepsInv h r v
  · exact ⟨{ h with }, rfl⟩
  · exact ⟨h.setByte hin b, rfl⟩
  · exact ⟨h.resetRegisters, rfl⟩

/-- Settles O57: the turn taken off the schedule keeps the invariant, and then each agent's move does. -/
theorem stepKeepsTheInvariant : Obligations.StepKeepsTheInvariant := by
  intro s t h hstep
  rcases step_cases hstep with ⟨-, he⟩ | ⟨ts, -, he⟩ | ⟨a, ts, -, hh⟩
  · exact engineStep_keepsInv h he
  · exact (engineStep_keepsInv (h.withTurns ts) he :)
  · exact (hostStep_keepsInv (h.withTurns ts) hh :)

end Sys2Proof.Machine
end

section
/-! Settles O48, O52, O53 and O54 (10_state.md R32 to R63, R67, 20_memory.md R110, R111): what a host access at an
offset of the register window answers, writes or is refused for. -/

namespace Sys2Proof.Machine

/-! ### One access -/

theorem step_host {s : State} {a : HostAction} {ts : List Turn} (h : s.turns = .host a :: ts) :
    step s = hostStep a { s with turns := ts } := by
  simp only [step, h]

/-- An access inside the window that is not 32 bits wide or not aligned has no offset (10_state.md R32). -/
theorem windowOffset_of_misaligned (s : State) {off width : Nat} (hlt : off < 0x1000) (h : width ≠ 4 ∨ off % 4 ≠ 0) :
    windowOffset s (s.params.regBase + off) width = .error .accessNot32BitAligned := by
  unfold windowOffset
  rw [if_neg (by omega), Nat.add_sub_cancel_left, if_pos h]

/-- A read at an aligned offset (10_state.md R32, R67). -/
theorem hostStep_readReg (s : State) {off : Nat} (hlt : off < 0x1000) (halign : off % 4 = 0) :
    hostStep (.readReg (s.params.regBase + off) 4) s =
      if s.status.busy = true ∧ readableWhileBusy (regAt off) = false then .refused .registerWhileBusy
      else .next { s with readData := some ((regAt off).elim 0 (readReg s)) } := by
  have hoff := (windowOffset_eq_ok_iff s _ 4 off).mpr ⟨rfl, hlt, halign, rfl⟩
  simp only [hostStep, hostReadReg, hoff]
  cases regAt off <;> rfl

/-- A write at an aligned offset (10_state.md R32, R67). -/
theorem hostStep_writeReg (s : State) {off : Nat} (hlt : off < 0x1000) (halign : off % 4 = 0) (v : Word) :
    hostStep (.writeReg (s.params.regBase + off) 4 v) s =
      if s.status.busy = true ∧ writableWhileBusy (regAt off) = false then .refused .registerWhileBusy
      else .next ((regAt off).elim s (writeReg s · v)) := by
  have hoff := (windowOffset_eq_ok_iff s _ 4 off).mpr ⟨rfl, hlt, halign, rfl⟩
  simp only [hostStep, hostWriteReg, hoff]
  cases regAt off <;> rfl

theorem readableWhileBusy_regAt_iff (off : Nat) :
    readableWhileBusy (regAt off) = true ↔ off = 0x000 ∨ off = 0x004 ∨ off = 0x008 ∨ off = 0x00C := by
  simp [readableWhileBusy, regAt_eq_some_iff, offsetOf, or_assoc]

theorem writableWhileBusy_regAt_iff (off : Nat) :
    writableWhileBusy (regAt off) = true ↔ off = 0x004 ∨ off = 0x008 ∨ off = 0x00C := by
  simp [writableWhileBusy, regAt_eq_some_iff, offsetOf, or_assoc]

/-- Settles O52: the window has no offset for a misaligned access, and a busy block shows four registers, each at its
offset. -/
theorem undefinedHostAccessesAreRefused : Obligations.UndefinedHostAccessesAreRefused := by
  intro s ts off v a b hlt
  refine ⟨fun width hbad => ?_, fun hbusy halign => ⟨fun hts h0 h4 h8 hC => ?_, fun hts h4 h8 hC => ?_⟩,
    fun hbusy => ?_⟩
  · have hoff := windowOffset_of_misaligned { s with turns := ts } hlt hbad
    exact ⟨fun hts => by rw [step_host hts]; simp only [hostStep, hostReadReg, hoff],
      fun hts => by rw [step_host hts]; simp only [hostStep, hostWriteReg, hoff]⟩
  · have hno : readableWhileBusy (regAt off) = false := by
      rw [← Bool.not_eq_true, readableWhileBusy_regAt_iff]
      omega
    rw [step_host hts]
    exact (hostStep_readReg { s with turns := ts } hlt halign).trans (if_pos ⟨hbusy, hno⟩)
  · have hno : writableWhileBusy (regAt off) = false := by
      rw [← Bool.not_eq_true, writableWhileBusy_regAt_iff]
      omega
    rw [step_host hts]
    exact (hostStep_writeReg { s with turns := ts } hlt halign v).trans (if_pos ⟨hbusy, hno⟩)
  · exact ⟨fun hts => by rw [step_host hts]; simp [hostStep, hostReadMem, hbusy],
      fun hts => by rw [step_host hts]; simp [hostStep, hostWriteMem, hbusy]⟩

/-! ### An access to a register -/

theorem offsetOf_lt (r : Reg) : offsetOf r < 0x1000 := by
  cases r with
  | palette i | alpha i =>
    have hi := i.isLt
    simp only [offsetOf]
    omega
  | _ => decide

theorem offsetOf_aligned (r : Reg) : offsetOf r % 4 = 0 := by
  cases r with
  | palette i | alpha i =>
    simp only [offsetOf]
    omega
  | _ => rfl

theorem regAt_offsetOf (r : Reg) : regAt (offsetOf r) = some r := (regAt_eq_some_iff _ _).mpr rfl

theorem step_readReg {s : State} {r : Reg} {ts : List Turn}
    (hts : s.turns = .host (.readReg (s.params.regBase + offsetOf r) 4) :: ts)
    (hb : s.status.busy = true → readableWhileBusy (some r) = true) :
    step s = .next { s with turns := ts, readData := some (readReg s r) } := by
  rw [step_host hts]
  refine (hostStep_readReg { s with turns := ts } (offsetOf_lt r) (offsetOf_aligned r)).trans ?_
  rw [regAt_offsetOf, if_neg fun h => by simp [hb h.1] at h]
  exact congrArg (fun d => Host.Outcome.next { s with turns := ts, readData := some d }) (readReg_hostSide s ts _ r)

theorem writeReg_withTurns (s : State) (r : Reg) (v : Word) (ts : List Turn) :
    writeReg { s with turns := ts } r v = { writeReg s r v with turns := ts } := by
  cases r with
  | cmd =>
    simp only [writeReg, writeCmd]
    split <;> rfl
  | _ => rfl

theorem step_writeReg {s : State} {r : Reg} {v : Word} {ts : List Turn}
    (hts : s.turns = .host (.writeReg (s.params.regBase + offsetOf r) 4 v) :: ts)
    (hb : s.status.busy = true → writableWhileBusy (some r) = true) :
    step s = .next { writeReg s r v with turns := ts } := by
  rw [step_host hts]
  refine (hostStep_writeReg { s with turns := ts } (offsetOf_lt r) (offsetOf_aligned r) v).trans ?_
  rw [regAt_offsetOf, if_neg fun h => by simp [hb h.1] at h, Option.elim_some, writeReg_withTurns]

/-- Settles O48: the write reaches `CMD` busy or not, and `writeCmd` accepts it exactly when idle. -/
theorem cmdWriteIsAcceptedOrLost : Obligations.CmdWriteIsAcceptedOrLost := by
  intro s ts w hts
  have hstep : step s = .next { writeCmd s w with turns := ts } := step_writeReg (r := .cmd) hts fun _ => rfl
  refine ⟨fun hidle => ?_, fun hbusy => ?_⟩
  · rw [writeCmd, if_neg (by simp [hidle])] at hstep
    exact ⟨_, hstep, rfl, step_readReg (r := .cmd) rfl fun _ => rfl⟩
  · rw [writeCmd, if_pos hbusy] at hstep
    exact hstep

/-! ### The words of the registers with fields -/

theorem toNat_append_eq_add {n m : Nat} (x : BitVec n) (y : BitVec m) :
    (x ++ y).toNat = 2 ^ m * x.toNat + y.toNat := by
  rw [BitVec.toNat_append, ← Nat.shiftLeft_add_eq_or_of_lt y.isLt, Nat.shiftLeft_eq, Nat.mul_comm]

theorem bit_toNat (b : Bool) : (bit b).toNat = b.toNat := BitVec.toNat_ofBool b

theorem ctrlWord_toNat (c : Ctrl) : (ctrlWord c).toNat = c.irqEn.toNat := by
  simp only [ctrlWord, toNat_append_eq_add, bit_toNat, BitVec.ofNat_eq_ofNat, BitVec.toNat_zero]
  omega

theorem statusWord_toNat (st : Status) :
    (statusWord st).toNat =
      st.busy.toNat + 2 * st.done.toNat + 4 * st.err.toNat + 8 * st.overrun.toNat + 256 * st.errCode.toNat := by
  simp only [statusWord, toNat_append_eq_add, bit_toNat, BitVec.ofNat_eq_ofNat, BitVec.toNat_zero]
  omega

theorem seqWord_toNat (q : Seq) :
    (seqWord q).toNat =
      (seqStateCode q.state).toNat + 16 * q.seenPlte.toNat + 32 * q.seenTrns.toNat + 64 * q.seenIdat.toNat := by
  simp only [seqWord, toNat_append_eq_add, bit_toNat, BitVec.ofNat_eq_ofNat, BitVec.toNat_zero]
  omega

theorem cfgValidWord_toNat (c : CfgValid) :
    (cfgValidWord c).toNat = c.hdr.toNat + 2 * c.plte.toNat + 4 * c.trns.toNat := by
  simp only [cfgValidWord, toNat_append_eq_add, bit_toNat, BitVec.ofNat_eq_ofNat, BitVec.toNat_zero]
  omega

theorem hdrFmtWord_toNat (f : HdrFmt) :
    (hdrFmtWord f).toNat = f.depth.toNat + 256 * f.color.toNat + 65536 * f.comp.toNat + 16777216 * f.filt.toNat := by
  simp only [hdrFmtWord, toNat_append_eq_add]
  omega

theorem rgbWord_toNat (c : Rgb) : (rgbWord c).toNat = c.red.toNat + 256 * c.green.toNat + 65536 * c.blue.toNat := by
  simp only [rgbWord, toNat_append_eq_add, BitVec.ofNat_eq_ofNat, BitVec.toNat_zero]
  omega

/-! ### The window -/

/-- A host read at an offset of the window answers `v` and changes nothing else. -/
def ReadAnswers (s : State) (off v : Nat) : Prop :=
  step { s with turns := [.host (.readReg (s.params.regBase + off) 4)] } =
    .next { s with turns := [], readData := some (BitVec.ofNat 32 v) }

theorem readAnswers_reg {s : State} {r : Reg} (hb : s.status.busy = true → readableWhileBusy (some r) = true) {v : Nat}
    (hv : (readReg s r).toNat = v) : ReadAnswers s (offsetOf r) v := by
  subst hv
  have hstep := step_readReg
    (s := { s with turns := [.host (.readReg (s.params.regBase + offsetOf r) 4)] }) (r := r) (ts := []) rfl hb
  rw [ReadAnswers, hstep, BitVec.ofNat_toNat, BitVec.setWidth_eq, readReg_hostSide s _ s.readData]

theorem readAnswers_zero {s : State} (hidle : s.status.busy = false) {off : Nat} (hlt : off < 0x1000)
    (halign : off % 4 = 0) (hr : regAt off = none) : ReadAnswers s off 0 := by
  refine (step_host rfl).trans ((hostStep_readReg { s with turns := [] } hlt halign).trans ?_)
  rw [if_neg (by simp [hidle]), hr]
  rfl

/-- The gap between the single registers and the tables, and the one after them, have no register (10_state.md R32). -/
theorem regAt_eq_none_of_gap {off : Nat} (h : 0x0A8 ≤ off ∧ off < 0x400 ∨ 0xC00 ≤ off) : regAt off = none := by
  rw [regAt_eq_none_iff]
  intro r
  cases r with
  | palette i | alpha i =>
    have hi := i.isLt
    simp only [offsetOf]
    omega
  | _ =>
    simp only [offsetOf]
    omega

/-- The aligned offsets between the single registers that name none (10_state.md R32). -/
theorem unlisted_between_registers :
    ∀ off ∈ [0x028, 0x02C, 0x038, 0x03C, 0x04C, 0x068, 0x06C, 0x07C],
      off < 0x1000 ∧ off % 4 = 0 ∧ regAt off = none := by
  decide

theorem toNat_zeroExtend_word {n : Nat} (x : BitVec n) (h : n ≤ 32 := by decide) : (x.zeroExtend 32).toNat = x.toNat :=
  BitVec.toNat_setWidth_of_le h

/-- Settles O53: a listed offset answers its register's word, an unlisted one 0. -/
theorem registerWindowReads : Obligations.RegisterWindowReads := by
  intro s
  refine ⟨readAnswers_reg (r := .id) (fun _ => rfl) rfl,
    readAnswers_reg (r := .ctrl) (fun _ => rfl) (ctrlWord_toNat _),
    readAnswers_reg (r := .status) (fun _ => rfl) (statusWord_toNat _),
    readAnswers_reg (r := .cmd) (fun _ => rfl) rfl, fun hidle => ?_⟩
  have field (r : Reg) {v : Nat} (hv : (readReg s r).toNat = v) : ReadAnswers s (offsetOf r) v :=
    readAnswers_reg (by simp [hidle]) hv
  have word (r : Reg) : ReadAnswers s (offsetOf r) (readReg s r).toNat := field r rfl
  refine ⟨word .arg0, word .arg1, word .arg2, word .arg3, word .errInfo, word .result, word .crcState, word .crcOut,
    word .inPtr, word .inEnd, field .seq ((seqWord_toNat _).trans ?_), word .chunkLen, word .chunkTag, word .chunkCrc,
    word .chunkCrcCalc, field .chunkClass ((toNat_zeroExtend_word _).trans ?_), word .chunkPayload,
    word .zbBase, word .zbCap, word .zbLen, field .cfgValid (cfgValidWord_toNat _), word .hdrWidth, word .hdrHeight,
    field .hdrFmt (hdrFmtWord_toNat _), field .hdrIl (toNat_zeroExtend_word _),
    field .plteCount (toNat_zeroExtend_word _), field .trnsCount (toNat_zeroExtend_word _),
    field .trnsKey0 (toNat_zeroExtend_word _), field .trnsKey1 (toNat_zeroExtend_word _),
    field .trnsKey2 (toNat_zeroExtend_word _), fun i => field (.palette i) (rgbWord_toNat _),
    fun i => field (.alpha i) (toNat_zeroExtend_word _), fun off halign hge hlt => ?_, fun off halign hge hlt => ?_,
    fun off hoff => ?_⟩
  · cases s.seq.state <;> rfl
  · cases s.chunkClass <;> rfl
  · exact readAnswers_zero hidle (by omega) halign (regAt_eq_none_of_gap (.inl ⟨hge, hlt⟩))
  · exact readAnswers_zero hidle hlt halign (regAt_eq_none_of_gap (.inr hge))
  · obtain ⟨hlt, halign, hnone⟩ := unlisted_between_registers off hoff
    exact readAnswers_zero hidle hlt halign hnone

/-- A register outside the writable ones ignores a write (10_state.md R32). -/
theorem writeReg_of_not_writable {r : Reg}
    (h : offsetOf r ∉ [0x004, 0x008, 0x00C, 0x010, 0x014, 0x018, 0x01C, 0x030, 0x070, 0x074, 0x078]) (s : State)
    (v : Word) : writeReg s r v = s := by
  cases r with
  | ctrl | status | cmd | arg0 | arg1 | arg2 | arg3 | crcState | zbBase | zbCap | zbLen =>
    exact absurd (by decide) h
  | _ => rfl

/-- Settles O54: a writable register takes the word, every other offset leaves the state. -/
theorem registerWindowWrites : Obligations.RegisterWindowWrites := by
  intro s v
  refine ⟨step_writeReg (r := .ctrl) rfl fun _ => rfl, fun hidle => ?_⟩
  have idle (r : Reg) (hb : s.status.busy = true) : writableWhileBusy (some r) = true := by simp [hidle] at hb
  refine ⟨step_writeReg (r := .arg0) rfl (idle _), step_writeReg (r := .arg1) rfl (idle _),
    step_writeReg (r := .arg2) rfl (idle _), step_writeReg (r := .arg3) rfl (idle _),
    step_writeReg (r := .crcState) rfl (idle _), step_writeReg (r := .zbBase) rfl (idle _),
    step_writeReg (r := .zbCap) rfl (idle _), step_writeReg (r := .zbLen) rfl (idle _), fun off halign hlt hoff => ?_⟩
  refine (step_host rfl).trans ((hostStep_writeReg { s with turns := [] } hlt halign v).trans ?_)
  rw [if_neg (by simp [hidle])]
  cases hr : regAt off with
  | none => rfl
  | some r =>
    obtain rfl := (regAt_eq_some_iff off r).mp hr
    rw [Option.elim_some, writeReg_of_not_writable hoff]

end Sys2Proof.Machine
end

section
/-! Settles O59 (10_state.md R60, 41_framer.md R232, 70_reset_and_hazards.md R455): the states in which a command
faults, none of them a state of the invariant, and that no command is refused. -/

namespace Sys2Proof.Machine

/-! ### A stream outside data memory -/

theorem frSigBody_of_stream_outside {s : State} (h : s.params.memSize < s.inEnd.toNat) :
    frSigBody s = .stop .streamOutsideMemory := by
  rw [frSigBody, if_pos]
  rw [← Bool.not_eq_true, streamInMem_iff]
  omega

theorem exec_frChunk_of_open {s : State} (hq : s.seq.state = .expectIhdr ∨ s.seq.state = .body) :
    exec .frChunk s = frChunkOpen s := by
  rcases hq with hq | hq <;> simp only [exec, execFrChunk, hq]

theorem frChunkOpen_of_stream_outside {s : State} (h : s.params.memSize < s.inEnd.toNat) :
    frChunkOpen s = .fault .streamOutsideMemory := by
  rcases frChunkOpen_cases s with ⟨-, hfault⟩ | ⟨hin, -⟩
  · exact hfault
  · exact absurd hin (Nat.not_le.mpr h)

/-! ### An illegal header -/

section
variable {s : State} (hclosed : s.seq.state = .idle ∨ s.seq.state = .done) (hv : s.cfg.valid.hdr = true)
  (hsrc : s.arg0.toNat + s.arg1.toNat ≤ s.params.memSize) (hdst : s.arg2.toNat + s.arg3.toNat ≤ s.params.memSize)
  (hnone : imageShape s.cfg = none)
include hclosed hv hsrc hdst hnone

theorem defiltBody_of_illegal_header : defiltBody s = .stop .headerNotLegal := by
  simp [defiltBody, srcAddr, srcLen, dstAddr, dstCap, (streamClosed_iff s).mpr hclosed, hv,
    (inMem_iff _ _ _).mpr hsrc, (inMem_iff _ _ _).mpr hdst, hnone]

theorem convBody_of_illegal_header : convBody s = .stop .headerNotLegal := by
  simp [convBody, srcAddr, srcLen, dstAddr, dstCap, (streamClosed_iff s).mpr hclosed, hv,
    (inMem_iff _ _ _).mpr hsrc, (inMem_iff _ _ _).mpr hdst, hnone]

end

theorem trnsLoad_of_unknown_color {s : State} (hv : s.cfg.valid.hdr = true)
    (hcolor : colorModeOf s.cfg.hdrFmt.color = none) (a n : Nat) : trnsLoad s a n = .stop .headerNotLegal := by
  simp [trnsLoad, hv, hcolor]

/-- `FR.CHUNK` on a sound chunk goes on to the order check and the loader (41_framer.md R234, R236, R237). -/
theorem exec_frChunk_of_sound {s : State} {len : Nat} {tag : Word}
    (hq : s.seq.state = .expectIhdr ∨ s.seq.state = .body) (h : ChunkSound s len tag) :
    exec .frChunk s = finishFramer (calcChunkCrc s len)
      (frAccept (calcChunkCrc s len) s.inPtr.toNat len tag (be32 s.mem (s.inPtr.toNat + 8 + len))) := by
  obtain ⟨⟨hstream, rfl, rfl, hle, hfits⟩, hcrc⟩ := h
  rw [exec_frChunk_of_open hq, frChunkOpen, if_neg (by simp [(streamInMem_iff s).mpr hstream]),
    frameCheck_eq_none.mpr ⟨hle, hfits⟩]
  exact congrArg (finishFramer _) (if_neg (not_not_intro hcrc.symm))

/-- A transparency chunk in its place under a header of unknown colour (41_framer.md R236, R237). -/
theorem frAccept_of_unknown_color {s : State} (hq : s.seq.state = .body) (hseen : s.seq.seenTrns = false)
    (hv : s.cfg.valid.hdr = true) (hcolor : colorModeOf s.cfg.hdrFmt.color = none) (p len : Nat) (stored : Word) :
    frAccept s p len 0x74524E53 stored = .stop .headerNotLegal := by
  have hcls : classify 0x74524E53 = .transparency := rfl
  have horder : checkOrder s.seq .transparency = none := by simp [checkOrder, hq, hseen]
  simp only [frAccept, hcls, horder, dispatchChunk, trnsLoad_of_unknown_color hv hcolor]

/-! ### No refusal -/

theorem finish_ne_refused (s : State) (res : Res State) (r : Refusal) : finish s res ≠ .refused r := by
  cases res <;> simp [finish]

theorem finishFramer_ne_refused (s : State) (res : Res State) (r : Refusal) : finishFramer s res ≠ .refused r := by
  cases res <;> simp [finishFramer]

theorem frChunkOpen_ne_refused (s : State) (r : Refusal) : frChunkOpen s ≠ .refused r := by
  rcases frChunkOpen_cases s with ⟨-, h⟩ | ⟨-, ⟨info, -, h⟩ | ⟨-, -, h⟩⟩
  · simp [h]
  · simp [h]
  · rw [h]
    exact finishFramer_ne_refused _ _ _

theorem exec_ne_refused (i : Instr) (s : State) (r : Refusal) : exec i s ≠ .refused r := by
  cases i with
  | frSig =>
    unfold exec execFrSig
    cases s.seq.state with
    | expectSig => exact finishFramer_ne_refused _ _ _
    | _ => exact finish_ne_refused _ _ _
  | frChunk =>
    unfold exec execFrChunk
    cases s.seq.state with
    | done => exact finishFramer_ne_refused _ _ _
    | expectIhdr | body => exact frChunkOpen_ne_refused s r
    | _ => exact finish_ne_refused _ _ _
  | nop | sreset | crcInit | crcByte b | crcFinal => exact nofun
  | _ => exact finish_ne_refused _ _ _

/-- Settles O59: each fault from the body that raises it; that the invariant excludes them is O57's
`exec_completesInInv`. -/
theorem commandsStopOnlyOutsideTheInvariant : Obligations.CommandsStopOnlyOutsideTheInvariant := by
  intro s
  refine ⟨fun hout => ⟨fun hq => ?_, fun hq => ?_⟩, fun hv hnone hclosed hsrc hdst => ⟨?_, ?_⟩,
    fun hv hcolor => ?_, fun i f hfault hinv => ?_, fun i r => exec_ne_refused i s r⟩
  · rw [exec, execFrSig, hq]
    exact congrArg (finishFramer s) (frSigBody_of_stream_outside hout)
  · exact (exec_frChunk_of_open hq).trans (frChunkOpen_of_stream_outside hout)
  · exact congrArg (finish s) (defiltBody_of_illegal_header hclosed hv hsrc hdst hnone)
  · exact congrArg (finish s) (convBody_of_illegal_header hclosed hv hsrc hdst hnone)
  · have hunknown : colorModeOf s.cfg.hdrFmt.color = none := by
      simpa [colorModeOf_eq_none_iff] using hcolor
    refine ⟨fun hsrc => ?_, fun len hq hseen hsound => ?_⟩
    · have hbody : onPayload trnsLoad s = .stop .headerNotLegal :=
        (if_pos ((inMem_iff _ _ _).mpr hsrc)).trans (trnsLoad_of_unknown_color hv hunknown _ _)
      exact congrArg (finish s) hbody
    · rw [exec_frChunk_of_sound (.inr hq) hsound]
      exact congrArg (finishFramer _)
        (frAccept_of_unknown_color (s := calcChunkCrc s len) hq hseen hv hunknown s.inPtr.toNat len _)
  · obtain ⟨t, ht, -⟩ := exec_completesInInv hinv i
    cases ht.symm.trans hfault

end Sys2Proof.Machine
end

section
/-! Settles O55 (20_memory.md R108, R100, 70_reset_and_hazards.md R460): the host's byte port into data memory, read and
written on an idle block. -/

namespace Sys2Proof.Machine

/-- A step that reads the port on an idle block (20_memory.md R108). -/
theorem step_readMem {s : State} {a : Nat} {ts : List Turn} (hidle : s.status.busy = false)
    (hturn : s.turns = .host (.readMem a) :: ts) :
    step s = if a < s.params.memSize
      then .next { s with turns := ts, readData := some ((memByte s.mem a).zeroExtend 32) }
      else .refused .outsideMemory := by
  rw [step_host hturn]
  simp [hostStep, hostReadMem, hidle, inMem_iff]

/-- A step that writes the port on an idle block (20_memory.md R108). -/
theorem step_writeMem {s : State} {a : Nat} {b : Byte} {ts : List Turn} (hidle : s.status.busy = false)
    (hturn : s.turns = .host (.writeMem a b) :: ts) :
    step s = if a < s.params.memSize
      then .next { s with turns := ts, mem := setByte s.mem a b }
      else .refused .outsideMemory := by
  rw [step_host hturn]
  simp [hostStep, hostWriteMem, hidle, inMem_iff]

/-- Settles O55: the range test decides each port access, and a write is `setByte` on a memory in canonical form, which
sets the addressed byte and no other. -/
theorem dataMemoryBytePort : Obligations.DataMemoryBytePort := by
  intro s ts a b hidle hwf
  refine ⟨fun hin => ⟨fun hturn => ?_, fun hturn => ?_⟩, fun hout => ⟨fun hturn => ?_, fun hturn => ?_⟩⟩
  · exact (step_readMem hidle hturn).trans (if_pos hin)
  · exact ⟨_, (step_writeMem hidle hturn).trans (if_pos hin), rfl, memByte_setByte_same hwf a b,
      fun _ hne => memByte_setByte_other s.mem b hne⟩
  · exact (step_readMem hidle hturn).trans (if_neg hout.not_gt)
  · exact (step_writeMem hidle hturn).trans (if_neg hout.not_gt)

end Sys2Proof.Machine
end

section
/-! Settles O2, O4 and O1 (30_encoding.md R140, R144, R145, 43_defilter.md R323): what the decoder answers for each
opcode and immediate, the opcode map as masks and matches, and the words that are no command. -/

namespace Sys2Proof

/-! ### What the decoder answers -/

/-- The `OP` column of the opcode map (30_encoding.md R144). -/
def assignedOpcodes : List Byte :=
  [0x00, 0x01, 0x10, 0x11, 0x12, 0x13, 0x20, 0x21, 0x22, 0x30, 0x31, 0x32, 0x33, 0x40, 0x41, 0x42, 0x50]

theorem opcodeOf_mem_assignedOpcodes (i : Instr) : opcodeOf i ∈ assignedOpcodes := by
  cases i <;> simp [opcodeOf, assignedOpcodes]

theorem immediateOf_of_no_immediate {i : Instr} (h : takesImmediate i = false) : immediateOf i = 0 := by
  cases i with
  | crcByte | fltByte | sample => cases h
  | _ => rfl

/-- `SAMPLE` has the one operand check of the encoding (30_encoding.md R145). -/
theorem wellFormed_of_no_immediate {i : Instr} (h : takesImmediate i = false) : i.wellFormed = true := by
  cases i with
  | sample => cases h
  | _ => rfl

theorem takesImmediate_iff (i : Instr) :
    takesImmediate i = true ↔ opcodeOf i = 0x11 ∨ opcodeOf i = 0x41 ∨ opcodeOf i = 0x42 := by
  cases i <;> simp [takesImmediate, opcodeOf]

theorem sampleDepthLegal_iff (d : Byte) : sampleDepthLegal d = true ↔ d = 1 ∨ d = 2 ∨ d = 4 ∨ d = 8 := by
  simp [sampleDepthLegal, or_assoc]

/-- The answers of the opcode map, each with the only opcodes and immediates that get it (30_encoding.md R144, R145). -/
inductive DecodeAnswer (op imm : Byte) : Except DecodeError Instr → Prop
  | command {i : Instr} (hwf : i.wellFormed = true) (hop : op = opcodeOf i) (himm : imm = immediateOf i) :
    DecodeAnswer op imm (.ok i)
  | unassignedOpcode (hop : op ∉ assignedOpcodes) : DecodeAnswer op imm (.error .unassignedOpcode)
  | unusedImmediate {i : Instr} (hi : takesImmediate i = false) (hop : op = opcodeOf i) (himm : imm ≠ 0) :
    DecodeAnswer op imm (.error .unusedImmediate)
  | sampleDepth (hop : op = 0x42) (himm : sampleDepthLegal imm = false) : DecodeAnswer op imm (.error .sampleDepth)

theorem noImmediate_answer {op : Byte} {i : Instr} (hop : op.toNat = (opcodeOf i).toNat) (hi : takesImmediate i = false)
    (imm : Byte) : DecodeAnswer op imm (noImmediate imm i) := by
  unfold noImmediate
  split
  · next himm =>
    exact .command (wellFormed_of_no_immediate hi) (BitVec.eq_of_toNat_eq hop)
      (himm.trans (immediateOf_of_no_immediate hi).symm)
  · next himm => exact .unusedImmediate hi (BitVec.eq_of_toNat_eq hop) himm

/-- All that the opcode map can answer. -/
theorem decodeOp_answer (op imm : Byte) : DecodeAnswer op imm (decodeOp op imm) := by
  unfold decodeOp
  split
  case h_4 hop | h_15 hop => exact .command rfl (BitVec.eq_of_toNat_eq hop) rfl
  case h_16 hop =>
    have hop : op = 0x42 := BitVec.eq_of_toNat_eq hop
    split
    · next hd => exact .command hd hop rfl
    · next hd => exact .sampleDepth hop (Bool.eq_false_of_not_eq_true hd)
  case h_18 =>
    refine .unassignedOpcode fun hmem => ?_
    simp_all [assignedOpcodes, ← BitVec.toNat_inj]
  all_goals exact noImmediate_answer ‹_› rfl imm

theorem decode_of_reserved {w : Word} (h : wordRsv w ≠ 0) : decode w = .error .reservedBits := if_pos h

theorem decode_of_no_reserved {w : Word} (h : wordRsv w = 0) : decode w = decodeOp (wordOp w) (wordImm w) :=
  if_neg (not_not_intro h)

theorem decode_answer {w : Word} (h : wordRsv w = 0) : DecodeAnswer (wordOp w) (wordImm w) (decode w) := by
  rw [decode_of_no_reserved h]
  exact decodeOp_answer _ _

/-- A command's opcode and immediate are answered with the command (30_encoding.md R144). -/
theorem decodeOp_of_wellFormed {i : Instr} (hwf : i.wellFormed = true) :
    decodeOp (opcodeOf i) (immediateOf i) = .ok i := by
  cases i with
  | sample d => exact if_pos hwf
  | _ => rfl

/-- The words of a command, by their fields (30_encoding.md R140). -/
theorem decode_eq_ok_iff (w : Word) (i : Instr) :
    decode w = .ok i ↔
      i.wellFormed = true ∧ wordRsv w = 0 ∧ wordImm w = immediateOf i ∧ wordOp w = opcodeOf i := by
  constructor
  · intro h
    have hrsv : wordRsv w = 0 := by
      by_contra hrsv
      cases (decode_of_reserved hrsv).symm.trans h
    obtain ⟨hwf, hop, himm⟩ := h ▸ decode_answer hrsv
    exact ⟨hwf, hrsv, himm, hop⟩
  · rintro ⟨hwf, hrsv, himm, hop⟩
    rw [decode_of_no_reserved hrsv, hop, himm, decodeOp_of_wellFormed hwf]

/-! ### The opcode map as masks and matches -/

/-- 30_encoding.md R140: the three fields are the word. -/
theorem wordRsv_append_wordImm_append_wordOp (w : Word) : wordRsv w ++ (wordImm w ++ wordOp w) = w := by
  rw [wordRsv, wordImm, wordOp, BitVec.extractLsb'_append_extractLsb'_eq_extractLsb' (show 8 = 0 + 8 from rfl),
    BitVec.extractLsb'_append_extractLsb'_eq_extractLsb' (show 16 = 0 + (8 + 8) from rfl)]
  exact BitVec.extractLsb'_eq_self

theorem word_ext_iff (v w : Word) : v = w ↔ wordRsv v = wordRsv w ∧ wordImm v = wordImm w ∧ wordOp v = wordOp w := by
  refine ⟨fun h => by simp [h], fun ⟨hrsv, himm, hop⟩ => ?_⟩
  rw [← wordRsv_append_wordImm_append_wordOp v, ← wordRsv_append_wordImm_append_wordOp w, hrsv, himm, hop]

theorem matchOf_fields (i : Instr) :
    wordRsv (matchOf i) = 0 ∧ wordImm (matchOf i) = 0 ∧ wordOp (matchOf i) = opcodeOf i := by
  rw [matchOf]
  generalize opcodeOf i = op
  revert op
  decide

/-- A row's mask keeps the reserved bits and the opcode, and the immediate where the row has none (30_encoding.md
R144). -/
theorem and_maskOf_eq_matchOf_iff (w : Word) (i : Instr) :
    w &&& maskOf i = matchOf i ↔
      wordRsv w = 0 ∧ (takesImmediate i = false → wordImm w = 0) ∧ wordOp w = opcodeOf i := by
  obtain ⟨hrsv, himm, hop⟩ := matchOf_fields i
  have hones16 (v : BitVec 16) : v &&& 0xFFFF = v := BitVec.and_allOnes
  have hones8 (v : Byte) : v &&& 0xFF = v := BitVec.and_allOnes
  rw [word_ext_iff, hrsv, himm, hop, maskOf]
  cases takesImmediate i <;> simp_all [wordRsv, wordImm, wordOp, BitVec.extractLsb'_and]

/-- 30_encoding.md R144, one row: the words of a command, by its mask and match. -/
theorem decode_eq_ok_iff_matches (w : Word) (i : Instr) :
    decode w = .ok i ↔ (w &&& maskOf i = matchOf i ∧ wordImm w = immediateOf i) ∧ i.wellFormed = true := by
  rw [decode_eq_ok_iff, and_maskOf_eq_matchOf_iff]
  constructor
  · rintro ⟨hwf, hrsv, himm, hop⟩
    exact ⟨⟨⟨hrsv, fun hi => himm.trans (immediateOf_of_no_immediate hi), hop⟩, himm⟩, hwf⟩
  · rintro ⟨⟨⟨hrsv, -, hop⟩, himm⟩, hwf⟩
    exact ⟨hwf, hrsv, himm, hop⟩

/-- A row without an immediate: the match alone decides. -/
theorem decode_eq_ok_iff_eq_matchOf (w : Word) {i : Instr} (hi : takesImmediate i = false) :
    decode w = .ok i ↔ w &&& 0xFFFFFFFF = matchOf i := by
  have hmask : maskOf i = 0xFFFFFFFF := by simp [maskOf, hi]
  rw [← hmask, decode_eq_ok_iff, and_maskOf_eq_matchOf_iff, immediateOf_of_no_immediate hi]
  simp [hi, wellFormed_of_no_immediate hi]

/-- Settles O2, row by row: a row without an immediate is its match; the others say their immediate too, and `SAMPLE` its
depths. -/
theorem opcodeMapMatchMask : Obligations.OpcodeMapMatchMask := by
  intro w
  have row {i : Instr} (hi : takesImmediate i = false) := decode_eq_ok_iff_eq_matchOf w hi
  refine ⟨row rfl, row rfl, row rfl, fun b => ?_, row rfl, row rfl, row rfl, row rfl, row rfl, row rfl, row rfl, row rfl,
    row rfl, row rfl, fun t => ?_, fun d => ?_, row rfl⟩
  · exact (decode_eq_ok_iff_matches w (.crcByte b)).trans (and_iff_left rfl)
  · exact (decode_eq_ok_iff_matches w (.fltByte t)).trans (and_iff_left rfl)
  · rw [← sampleDepthLegal_iff]
    exact (decode_eq_ok_iff_matches w (.sample d)).trans and_assoc

/-- Settles O1, each word by evaluation; `decode_eq_ok_iff` is the general fact. -/
theorem decodeOfWrittenWords : Obligations.DecodeOfWrittenWords := by
  unfold Obligations.DecodeOfWrittenWords
  decide

/-! ### The words that are no command -/

theorem decode_of_unassigned {w : Word} (hrsv : wordRsv w = 0) (hop : wordOp w ∉ assignedOpcodes) :
    decode w = .error .unassignedOpcode := by
  have hanswer := decode_answer hrsv
  generalize decode w = r at hanswer ⊢
  cases hanswer with
  | unassignedOpcode => rfl
  | command _ h _ => exact absurd (h ▸ opcodeOf_mem_assignedOpcodes _) hop
  | unusedImmediate _ h _ => exact absurd (h ▸ opcodeOf_mem_assignedOpcodes _) hop
  | sampleDepth h _ => exact absurd (h ▸ opcodeOf_mem_assignedOpcodes (.sample 1)) hop

theorem decode_of_unused_immediate {w : Word} (hrsv : wordRsv w = 0) (hop : wordOp w ∈ assignedOpcodes)
    (hno : ¬(wordOp w = 0x11 ∨ wordOp w = 0x41 ∨ wordOp w = 0x42)) (himm : wordImm w ≠ 0) :
    decode w = .error .unusedImmediate := by
  have hanswer := decode_answer hrsv
  generalize decode w = r at hanswer ⊢
  cases hanswer with
  | unusedImmediate => rfl
  | @command i _ h h' =>
    rw [h, ← takesImmediate_iff, Bool.not_eq_true] at hno
    exact absurd (h'.trans (immediateOf_of_no_immediate hno)) himm
  | unassignedOpcode h => exact absurd hop h
  | sampleDepth h _ => exact absurd (.inr (.inr h)) hno

theorem decode_of_sample_depth {w : Word} (hrsv : wordRsv w = 0) (hop : wordOp w = 0x42)
    (himm : sampleDepthLegal (wordImm w) = false) : decode w = .error .sampleDepth := by
  rw [decode_of_no_reserved hrsv, hop]
  simp [decodeOp, himm]

end Sys2Proof

namespace Sys2Proof.Machine

/-- The engine moves at its turn, or with nothing scheduled (assumption log 4). -/
theorem step_engine {s : State} {ts : List Turn} (h : s.turns = [] ∧ ts = [] ∨ s.turns = .engine :: ts) :
    step s = engineStep { s with turns := ts } := by
  rcases h with ⟨h, rfl⟩ | h
  · simp only [step, h]
    rw [← h]
  · simp only [step, h]

/-- 30_encoding.md R145, 60_exceptions.md R410: a word that is no command. -/
theorem engineStep_of_decode_error {s : State} {w : Word} {e : DecodeError} (hw : s.latch = some w)
    (hd : decode w = .error e) : engineStep s = .next (errorNext s 12 (badCommandCause e)) := by
  simp only [engineStep, hw, hd]
  rfl

theorem engineStep_of_decode_ok {s : State} {w : Word} {i : Instr} (hw : s.latch = some w) (hd : decode w = .ok i) :
    engineStep s = exec i s := by
  simp only [engineStep, hw, hd]

/-- 43_defilter.md R323: a type above 4 is the command's own error. -/
theorem exec_fltByte_of_invalid_type (s : State) {t : Byte} (ht : 4 < t.toNat) :
    exec (.fltByte t) s = .next (errorNext s 9 0) := by
  rcases fltByteBody_cases t s with ⟨-, hr⟩ | ⟨ft, hft, -⟩
  · exact congrArg (finish s) hr
  · cases hft.symm.trans ((filterTypeOf_eq_none_iff t).mpr ht)

/-- Settles O4: the engine's step on what the decoder answers for the word, and on `FLT.BYTE` itself. -/
theorem illegalWordsRaiseBadCommand : Obligations.IllegalWordsRaiseBadCommand := by
  intro s w ts hturns hw
  have hstep := step_engine hturns
  have herror {e : DecodeError} (hd : decode w = .error e) :
      step s = .next (errorNext { s with turns := ts } 12 (badCommandCause e)) :=
    hstep.trans (engineStep_of_decode_error hw hd)
  refine ⟨fun hrsv => ?_, fun hrsv hop => ?_, fun hrsv hop h11 h41 h42 himm => ?_, fun hrsv hop h1 h2 h4 h8 => ?_,
    fun hrsv hop ht => ?_⟩
  · exact herror (decode_of_reserved hrsv)
  · exact herror (decode_of_unassigned hrsv hop)
  · exact herror (decode_of_unused_immediate hrsv hop (not_or.mpr ⟨h11, not_or.mpr ⟨h41, h42⟩⟩) himm)
  · refine herror (decode_of_sample_depth hrsv hop ?_)
    rw [← Bool.not_eq_true, sampleDepthLegal_iff]
    exact not_or.mpr ⟨h1, not_or.mpr ⟨h2, not_or.mpr ⟨h4, h8⟩⟩⟩
  · have hd : decode w = .ok (.fltByte (wordImm w)) := (decode_eq_ok_iff w _).mpr ⟨rfl, hrsv, rfl, hop⟩
    exact hstep.trans (.trans (engineStep_of_decode_ok hw hd) (exec_fltByte_of_invalid_type _ ht))

end Sys2Proof.Machine
end

section
/-! Settles O44 (30_encoding.md R143, 60_exceptions.md R410, R411): the registers each command's body writes, said once
for each body, and from these the registers each command writes in every outcome. -/

namespace Sys2Proof.Machine

/-! ### The registers each body writes -/

section
variable {s u : State} {a n : Nat}

theorem onPayload_ok {body : State → Nat → Nat → Res State} (h : onPayload body s = .ok u) :
    body s s.arg0.toNat s.arg1.toNat = .ok u := by
  rcases onPayload_cases body s with ⟨-, hr⟩ | ⟨-, hr⟩
  · cases hr.symm.trans h
  · exact hr.symm.trans h

theorem crcMemBody_writes (h : crcMemBody s = .ok u) : ∃ c, u = { s with crcState := c } := by
  rcases crcMemBody_cases s with ⟨-, hr⟩ | ⟨-, hr⟩
  · exact ⟨_, (Res.ok.inj (hr.symm.trans h)).symm⟩
  · cases hr.symm.trans h

theorem frStartBody_ok (h : frStartBody s = .ok u) : u = openStream s s.arg0.toNat s.arg1.toNat := by
  rcases frStartBody_cases s with ⟨-, hr⟩ | ⟨-, hr⟩
  · exact (Res.ok.inj (hr.symm.trans h)).symm
  · cases hr.symm.trans h

theorem frSigBody_writes (h : frSigBody s = .ok u) : ∃ p q, u = { s with inPtr := p, seq := q } := by
  rcases frSigBody_cases s with ⟨-, hr⟩ | ⟨-, -, hr⟩ | hr | hr
  · cases hr.symm.trans h
  · exact ⟨_, _, (Res.ok.inj (hr.symm.trans h)).symm⟩
  · cases hr.symm.trans h
  · cases hr.symm.trans h

theorem headerLoad_writes (h : headerLoad s a n = .ok u) : ∃ c, u = { s with cfg := c } := by
  rcases headerLoad_cases s a n with ⟨-, -, hr⟩ | ⟨info, -, hr⟩
  · exact ⟨_, (Res.ok.inj (hr.symm.trans h)).symm⟩
  · cases hr.symm.trans h

theorem paletteLoad_writes (h : paletteLoad s a n = .ok u) :
    ∃ k p v, u = { s with
      cfg := { s.cfg with plteCount := k, palette := p, valid := { s.cfg.valid with plte := v } } } := by
  rcases paletteLoad_cases s a n with ⟨-, -, -, -, hr⟩ | ⟨-, hr⟩ | ⟨-, hr | hr | hr⟩
  · exact ⟨_, _, _, (Res.ok.inj (hr.symm.trans h)).symm⟩
  all_goals cases hr.symm.trans h

theorem trnsLoad_ok (h : trnsLoad s a n = .ok u) : ∃ k0 k1 k2 al, u = writeTransparency s k0 k1 k2 al := by
  rcases trnsLoad_cases s a n with ⟨t, hr, ht⟩ | ⟨-, hr⟩ | ⟨-, hr | hr | hr⟩ | ⟨-, -, hr⟩
  · obtain rfl := Res.ok.inj (hr.symm.trans h)
    obtain ⟨k0, k1, k2, al, hu, -⟩ := ht.loaded
    exact ⟨k0, k1, k2, al, hu⟩
  all_goals cases hr.symm.trans h

theorem zbAppend_writes (h : zbAppend s a n = .ok u) : ∃ m z, u = { s with mem := m, zbLen := z } := by
  rcases zbAppend_cases s a n with ⟨-, -, hr⟩ | hr | hr
  · exact ⟨_, _, (Res.ok.inj (hr.symm.trans h)).symm⟩
  all_goals cases hr.symm.trans h

theorem defiltImage_writes {sh : ImageShape} (h : defiltImage s sh = .ok u) : ∃ m, u = { s with mem := m } := by
  rcases defiltImage_cases s sh with ⟨hr, -⟩ | ⟨hr, -⟩ | ⟨y, -, hr⟩ | ⟨rows, -, -, -, hr⟩
  case inr.inr.inr => exact ⟨_, (Res.ok.inj (hr.symm.trans h)).symm⟩
  all_goals cases hr.symm.trans h

theorem defiltBody_writes (h : defiltBody s = .ok u) : ∃ m, u = { s with mem := m } := by
  rcases defiltBody_cases s with ⟨hr, -⟩ | ⟨hr, -⟩ | ⟨hr, -⟩ | ⟨hr, -⟩ | ⟨hr, -⟩ | ⟨sh, -, -, -, hr⟩
  case inr.inr.inr.inr.inr => exact defiltImage_writes (hr.symm.trans h)
  all_goals cases hr.symm.trans h

theorem convImage_writes {sh : ImageShape} (h : convImage s sh = .ok u) : ∃ m, u = { s with mem := m } := by
  rcases convImage_cases s sh with ⟨hr, -⟩ | ⟨hr, -⟩ | ⟨hr, -⟩ | ⟨-, -, -, hr⟩
  case inr.inr.inr => exact ⟨_, (Res.ok.inj (hr.symm.trans h)).symm⟩
  all_goals cases hr.symm.trans h

theorem convBody_writes (h : convBody s = .ok u) : ∃ m, u = { s with mem := m } := by
  rcases convBody_cases s with ⟨hr, -⟩ | ⟨hr, -⟩ | ⟨hr, -⟩ | ⟨hr, -⟩ | ⟨hr, -⟩ | ⟨sh, -, -, -, hr⟩
  case inr.inr.inr.inr.inr => exact convImage_writes (hr.symm.trans h)
  all_goals cases hr.symm.trans h

theorem fltByteBody_writes {t : Byte} (h : fltByteBody t s = .ok u) : ∃ r, u = { s with result := r } := by
  rcases fltByteBody_cases t s with ⟨-, hr⟩ | ⟨ft, -, hr⟩
  · cases hr.symm.trans h
  · exact ⟨_, (Res.ok.inj (hr.symm.trans h)).symm⟩

theorem sampleBody_writes {d : Byte} (h : sampleBody d s = .ok u) : ∃ r, u = { s with result := r } := by
  rcases sampleBody_cases d s with ⟨-, hr⟩ | ⟨-, hr⟩ | ⟨-, -, hr⟩
  · cases hr.symm.trans h
  · cases hr.symm.trans h
  · exact ⟨_, (Res.ok.inj (hr.symm.trans h)).symm⟩

/-! ### A chunk -/

/-- The loaders together: the configuration, the buffer's length, and data memory (41_framer.md R237). -/
theorem dispatchChunk_writes {cls : ChunkClass} (h : dispatchChunk cls s a n = .ok u) :
    ∃ c z m, u = { s with cfg := c, zbLen := z, mem := m } := by
  cases cls with
  | header =>
    obtain ⟨c, rfl⟩ := headerLoad_writes h
    exact ⟨_, _, _, rfl⟩
  | palette =>
    obtain ⟨k, p, v, rfl⟩ := paletteLoad_writes h
    exact ⟨_, _, _, rfl⟩
  | transparency =>
    obtain ⟨k0, k1, k2, al, rfl⟩ := trnsLoad_ok h
    exact ⟨_, _, _, rfl⟩
  | imageData =>
    obtain ⟨m, z, rfl⟩ := zbAppend_writes h
    exact ⟨_, _, _, rfl⟩
  | noneYet | endMarker | other =>
    obtain rfl := Res.ok.inj h
    exact ⟨_, _, _, rfl⟩

theorem frCheckCrc_ok {p len : Nat} {tag stored : Word} (h : frCheckCrc s p len tag stored = .ok u) :
    ∃ t, dispatchChunk (classify tag) s (p + 8) len = .ok t ∧ u = acceptChunk t p len tag stored (classify tag) := by
  rcases frCheckCrc_cases s p len tag stored with
    ⟨-, hr⟩ | ⟨-, info, -, hr⟩ | ⟨-, -, ⟨t, ht, hr⟩ | ⟨e, info, -, hr⟩ | ⟨f, -, hr⟩⟩
  case inr.inr.inl => exact ⟨t, ht, (Res.ok.inj (hr.symm.trans h)).symm⟩
  all_goals cases hr.symm.trans h

end

/-- All that `FR.SIG` can do: `BadCommand(4)` in the wrong state, or its body runs (41_framer.md R233, R239). -/
theorem exec_frSig_cases (s : State) :
    exec .frSig s = .next (raiseError s .badCommand 4) ∨ exec .frSig s = finishFramer s (frSigBody s) := by
  unfold exec execFrSig
  cases s.seq.state with
  | expectSig => exact .inr rfl
  | idle | expectIhdr | body | done | failed => exact .inl rfl

/-- All that `FR.CHUNK` can do: `BadCommand(4)` in the wrong state, the stream fails or lies outside data memory, or a
framed chunk is checked with its CRC calculated (41_framer.md R234). -/
theorem exec_frChunk_cases (s : State) :
    exec .frChunk s = .next (raiseError s .badCommand 4) ∨
    (∃ e info, exec .frChunk s = .next (failStream s e info)) ∨
    exec .frChunk s = .fault .streamOutsideMemory ∨
    (∃ p len tag stored, exec .frChunk s =
      finishFramer (calcChunkCrc s len) (frCheckCrc (calcChunkCrc s len) p len tag stored)) := by
  have hopen (hq : s.seq.state = .expectIhdr ∨ s.seq.state = .body) :
      (∃ e info, exec .frChunk s = .next (failStream s e info)) ∨
      exec .frChunk s = .fault .streamOutsideMemory ∨
      (∃ p len tag stored, exec .frChunk s =
        finishFramer (calcChunkCrc s len) (frCheckCrc (calcChunkCrc s len) p len tag stored)) := by
    rw [exec_frChunk_of_open hq]
    rcases frChunkOpen_cases s with ⟨-, hr⟩ | ⟨-, ⟨info, -, hr⟩ | ⟨-, -, hr⟩⟩
    · exact .inr (.inl hr)
    · exact .inl ⟨_, _, hr⟩
    · exact .inr (.inr ⟨_, _, _, _, hr⟩)
  cases hq : s.seq.state with
  | idle | expectSig | failed => exact .inl (by simp only [exec, execFrChunk, hq, finish_raise])
  | done => exact .inr (.inl ⟨.outOfOrderChunk, 6, by simp only [exec, execFrChunk, hq, finishFramer_raise]⟩)
  | expectIhdr => exact .inr (hopen (.inl hq))
  | body => exact .inr (hopen (.inr hq))

/-! ### The commands -/

/-- Settles O44: each command writes what its body writes, then completes; the framer's errors also fail the stream. -/
theorem registersEachCommandWrites : Obligations.RegistersEachCommandWrites := by
  intro s t
  refine ⟨?nop, ?crcInit, fun b => ?crcByte, ?crcMem, ?crcFinal, ?frStart, ?frSig, ?frChunk, ?ldHdr, ?ldPlte, ?ldTrns,
    ?zbAppend, ?defilt, fun f => ?fltByte, fun d => ?sample, ?conv⟩
  case frSig =>
    intro h
    rcases exec_frSig_cases s with hr | hr
    · obtain rfl := Host.Outcome.next.inj (hr.symm.trans h)
      rfl
    · obtain ⟨u, hu, rfl⟩ | ⟨e, info, -, rfl⟩ := finishFramer_next (hr.symm.trans h)
      · obtain ⟨p, q, rfl⟩ := frSigBody_writes hu
        rfl
      · rfl
  case frChunk =>
    intro h
    rcases exec_frChunk_cases s with hr | ⟨e, info, hr⟩ | hr | ⟨p, len, tag, stored, hr⟩
    · obtain rfl := Host.Outcome.next.inj (hr.symm.trans h)
      rfl
    · obtain rfl := Host.Outcome.next.inj (hr.symm.trans h)
      rfl
    · cases hr.symm.trans h
    · obtain ⟨u, hu, rfl⟩ | ⟨e, info, -, rfl⟩ := finishFramer_next (hr.symm.trans h)
      · obtain ⟨v, hv, rfl⟩ := frCheckCrc_ok hu
        obtain ⟨c, z, m, rfl⟩ := dispatchChunk_writes hv
        rfl
      · rfl
  all_goals
    intro h
    simp only [exec, execNop, execCrcInit, execCrcByte, execCrcMem, execCrcFinal, execFrStart, execLdHdr, execLdPlte,
      execLdTrns, execZbAppend, execDefilt, execFltByte, execSample, execConv] at h
    obtain ⟨u, hu, rfl⟩ | ⟨e, info, -, rfl⟩ := finish_next h
    on_goal 2 => rfl
  case nop.inl | crcInit.inl | crcByte.inl | crcFinal.inl =>
    obtain rfl := Res.ok.inj hu
    rfl
  case crcMem.inl =>
    obtain ⟨c, rfl⟩ := crcMemBody_writes hu
    rfl
  case frStart.inl =>
    obtain rfl := frStartBody_ok hu
    rfl
  case ldHdr.inl =>
    obtain ⟨c, rfl⟩ := headerLoad_writes (onPayload_ok hu)
    rfl
  case ldPlte.inl =>
    obtain ⟨k, p, v, rfl⟩ := paletteLoad_writes (onPayload_ok hu)
    rfl
  case ldTrns.inl =>
    obtain ⟨k0, k1, k2, al, rfl⟩ := trnsLoad_ok (onPayload_ok hu)
    rfl
  case zbAppend.inl =>
    obtain ⟨m, z, rfl⟩ := zbAppend_writes (onPayload_ok hu)
    rfl
  case defilt.inl =>
    obtain ⟨m, rfl⟩ := defiltBody_writes hu
    rfl
  case fltByte.inl =>
    obtain ⟨r, rfl⟩ := fltByteBody_writes hu
    rfl
  case sample.inl =>
    obtain ⟨r, rfl⟩ := sampleBody_writes hu
    rfl
  case conv.inl =>
    obtain ⟨m, rfl⟩ := convBody_writes hu
    rfl

end Sys2Proof.Machine
end

section
/-! Settles O11, O12, O9 and O10 (40_crc.md R200 to R207): the eight steps of a table entry are linear over XOR and
one-to-one, so the update of one byte is the eight steps of the register with the byte XORed in, and no fold loses a
change; and what each command of the CRC unit completes with. -/

namespace Sys2Proof.Machine

/-! ### The steps of a table entry -/

@[simp] theorem crcTableSteps_zero (c : Word) : crcTableSteps 0 c = c := rfl
@[simp] theorem crcTableSteps_succ (k : Nat) (c : Word) :
    crcTableSteps (k + 1) c = crcTableSteps k (crcTableStep c) := rfl

theorem crcTableSteps_eq_iterate (k : Nat) (c : Word) : crcTableSteps k c = crcTableStep^[k] c := by
  induction k generalizing c with
  | zero => rfl
  | succ k ih => rw [crcTableSteps_succ, ih, Function.iterate_succ_apply]

/-- XOR is associative and commutative, and the polynomial XORed in twice is gone. -/
theorem crcTableStep_xor (x y : Word) : crcTableStep (x ^^^ y) = crcTableStep x ^^^ crcTableStep y := by
  unfold crcTableStep
  rw [BitVec.getLsbD_xor, BitVec.ushiftRight_xor_distrib]
  cases x.getLsbD 0 <;> cases y.getLsbD 0
  · rfl
  · show Config.crcPoly ^^^ (x >>> 1 ^^^ y >>> 1) = x >>> 1 ^^^ (Config.crcPoly ^^^ y >>> 1)
    ac_rfl
  · exact (BitVec.xor_assoc _ _ _).symm
  · calc x >>> 1 ^^^ y >>> 1
      _ = (Config.crcPoly ^^^ Config.crcPoly) ^^^ (x >>> 1 ^^^ y >>> 1) := by rw [BitVec.xor_self, BitVec.zero_xor]
      _ = (Config.crcPoly ^^^ x >>> 1) ^^^ (Config.crcPoly ^^^ y >>> 1) := by ac_rfl

theorem crcTableSteps_xor (k : Nat) (x y : Word) :
    crcTableSteps k (x ^^^ y) = crcTableSteps k x ^^^ crcTableSteps k y := by
  induction k generalizing x y with
  | zero => rfl
  | succ k ih => simp only [crcTableSteps_succ, crcTableStep_xor, ih]

/-- Zero bits are shifted out and the polynomial is never XORed in. -/
theorem crcTableSteps_of_low_bits_zero {k : Nat} {x : Word} (h : ∀ i < k, x.getLsbD i = false) :
    crcTableSteps k x = x >>> k := by
  induction k generalizing x with
  | zero => simp
  | succ k ih =>
    have hstep : crcTableStep x = x >>> 1 := if_neg (ne_true_of_eq_false (h 0 k.succ_pos))
    have hrest : ∀ i < k, (x >>> 1).getLsbD i = false := fun i hi => by
      rw [BitVec.getLsbD_ushiftRight]
      exact h _ (by omega)
    rw [crcTableSteps_succ, hstep, ih hrest, ← BitVec.shiftRight_add, Nat.add_comm]

/-- The top bit of the polynomial is set: what a step shifts out stands in the top bit of its result. -/
theorem msb_crcTableStep (x : Word) : (crcTableStep x).msb = x.getLsbD 0 := by
  have hpoly : Config.crcPoly.msb = true := rfl
  unfold crcTableStep
  cases x.getLsbD 0 <;> simp [BitVec.msb_xor, BitVec.msb_ushiftRight, hpoly]

theorem crcTableStep_injective : Function.Injective crcTableStep := by
  intro x y h
  have hlow : x.getLsbD 0 = y.getLsbD 0 := by rw [← msb_crcTableStep, h, msb_crcTableStep]
  have hhigh : x >>> 1 = y >>> 1 := by
    unfold crcTableStep at h
    rw [hlow] at h
    split at h
    · exact (BitVec.xor_right_inj _).mp h
    · exact h
  apply BitVec.eq_of_getLsbD_eq
  intro i _
  cases i with
  | zero => exact hlow
  | succ i => simpa [BitVec.getLsbD_ushiftRight, Nat.add_comm] using congrArg (BitVec.getLsbD · i) hhigh

theorem crcTableSteps_injective (k : Nat) : Function.Injective (crcTableSteps k) := by
  intro x y h
  rw [crcTableSteps_eq_iterate, crcTableSteps_eq_iterate] at h
  exact crcTableStep_injective.iterate k h

/-! ### The update of one byte -/

theorem ushiftRight_zeroExtend_byte (b : Byte) : b.zeroExtend 32 >>> 8 = 0#32 := by
  ext i hi
  simp

/-- The table is a short cut: looking up the low byte and shifting the rest is the same as eight steps of the whole
word (40_crc.md R200, R201). -/
theorem crcUpdate_eq_crcTableSteps (c : Word) (b : Byte) :
    crcUpdate c b = crcTableSteps 8 (c ^^^ b.zeroExtend 32) := by
  generalize hx : c ^^^ b.zeroExtend 32 = x
  generalize hlow : (x.extractLsb' 0 8).zeroExtend 32 = low
  have hclear : ∀ i < 8, (low ^^^ x).getLsbD i = false := by
    intro i hi
    subst hlow
    simp [hi, show i < 32 by omega]
  have hrest : (low ^^^ x) >>> 8 = c >>> 8 := by
    rw [← hlow, ← hx, BitVec.ushiftRight_xor_distrib, BitVec.ushiftRight_xor_distrib, ushiftRight_zeroExtend_byte,
      ushiftRight_zeroExtend_byte, BitVec.xor_zero, BitVec.zero_xor]
  calc crcUpdate c b
    _ = crcTableSteps 8 low ^^^ c >>> 8 := by rw [crcUpdate, hx, crcTable, hlow]
    _ = crcTableSteps 8 low ^^^ crcTableSteps 8 (low ^^^ x) := by rw [crcTableSteps_of_low_bits_zero hclear, hrest]
    _ = crcTableSteps 8 x := by rw [← crcTableSteps_xor, ← BitVec.xor_assoc, BitVec.xor_self, BitVec.zero_xor]

/-- The low byte as the rule takes it, by a mask, and as the model takes it (40_crc.md R201). -/
theorem truncate_and_low_ones (x : Word) : (x &&& 0xFF).truncate 8 = x.extractLsb' 0 8 := by
  have hones (v : Byte) : v &&& 0xFF = v := BitVec.and_allOnes
  have htruncate : x.truncate 8 = x.extractLsb' 0 8 := BitVec.eq_of_toNat_eq (by simp)
  calc (x &&& 0xFF).truncate 8
    _ = x.truncate 8 &&& 0xFF := BitVec.setWidth_and ..
    _ = x.extractLsb' 0 8 := (hones _).trans htruncate

theorem crcUpdate_register_injective (b : Byte) : Function.Injective (crcUpdate · b) := by
  intro c d h
  simp only [crcUpdate_eq_crcTableSteps] at h
  exact BitVec.xor_left_inj _ |>.mp (crcTableSteps_injective 8 h)

theorem crcUpdate_byte_injective (c : Word) : Function.Injective (crcUpdate c) := by
  intro a b h
  rw [crcUpdate_eq_crcTableSteps, crcUpdate_eq_crcTableSteps] at h
  have hext : a.zeroExtend 32 = b.zeroExtend 32 := (BitVec.xor_right_inj _).mp (crcTableSteps_injective 8 h)
  apply BitVec.eq_of_toNat_eq
  rw [← toNat_zeroExtend_word a, hext, toNat_zeroExtend_word]

theorem crcFold_injective (bs : List Byte) : Function.Injective (crcFold · bs) := by
  induction bs with
  | nil => exact Function.injective_id
  | cons b bs ih => exact ih.comp (crcUpdate_register_injective b)

theorem flipBit_ne (b : Byte) (k : Fin 8) : flipBit b k ≠ b := by
  have hmask : 1#8 <<< k.val ≠ 0 := by
    revert k
    decide
  simpa [flipBit] using hmask

/-- Settles O12: the fold up to the changed byte is the same, the update tells the two bytes apart, and the rest of the
fold and the final XOR are one-to-one. -/
theorem crcDetectsEverySingleBitChange : Obligations.CrcDetectsEverySingleBitChange := by
  intro before after b k h
  have hfold := (BitVec.xor_left_inj _).mp h
  simp only [crcFold_append, crcFold_cons] at hfold
  exact flipBit_ne b k (crcUpdate_byte_injective _ (crcFold_injective after hfold))

/-- Settles O9: the model's steps are the iterated recurrence, and the printed values are evaluated. -/
theorem crcTableUpdateAndFold : Obligations.CrcTableUpdateAndFold := by
  refine ⟨fun n => crcTableSteps_eq_iterate 8 _, by decide, by decide, by decide, by decide, fun c b => ?_,
    fun _ => rfl, by decide, by decide +kernel⟩
  rw [truncate_and_low_ones, crcUpdate]

/-! ### The commands -/

/-- The word of `CRC.BYTE`: its opcode, and the data byte as the immediate (30_encoding.md R140, 40_crc.md R204). -/
theorem decode_crcByte_word (b : Byte) : decode (0x00000011 ||| (b.zeroExtend 32 <<< 8)) = .ok (.crcByte b) := by
  have hfields : wordRsv (0x00000011 ||| (b.zeroExtend 32 <<< 8)) = 0 ∧
      wordImm (0x00000011 ||| (b.zeroExtend 32 <<< 8)) = b ∧
      wordOp (0x00000011 ||| (b.zeroExtend 32 <<< 8)) = 0x11 := by
    revert b
    decide
  exact (decode_eq_ok_iff _ _).mpr ⟨rfl, hfields⟩

/-- Settles O10: the decoder's rows, and the state each body completes with. -/
theorem crcInitByteFinalResult : Obligations.CrcInitByteFinalResult :=
  ⟨by decide, decode_crcByte_word, by decide, fun _ => ⟨rfl, fun _ => rfl, rfl⟩⟩

theorem exec_crcMem_of_inMem {s : State} (h : s.arg0.toNat + s.arg1.toNat ≤ s.params.memSize) :
    exec .crcMem s = .next (successNext
      { s with crcState := crcFold s.crcState (memRead s.mem s.arg0.toNat s.arg1.toNat) }) := by
  rcases crcMemBody_cases s with ⟨-, hr⟩ | ⟨hout, -⟩
  · exact congrArg (finish s) hr
  · omega

theorem exec_crcMem_of_outside {s : State} (h : s.params.memSize < s.arg0.toNat + s.arg1.toNat) :
    exec .crcMem s = .next (errorNext s 13 1) := by
  rcases crcMemBody_cases s with ⟨hin, -⟩ | ⟨-, hr⟩
  · omega
  · exact congrArg (finish s) hr

/-- `CRC.MEM` over a range given by numbers: a legal range fits the 32-bit arguments (00_scope.md R9). -/
theorem exec_crcMem_range (s : State) {a n : Nat} (h : a + n ≤ s.params.memSize) :
    exec .crcMem { s with arg0 := BitVec.ofNat 32 a, arg1 := BitVec.ofNat 32 n } = .next (successNext
      { s with
        arg0 := BitVec.ofNat 32 a
        arg1 := BitVec.ofNat 32 n
        crcState := crcFold s.crcState (memRead s.mem a n) }) := by
  have hsize := s.params.memSize_le
  have ha : (BitVec.ofNat 32 a).toNat = a := toNat_ofNat_of_lt (by omega)
  have hn : (BitVec.ofNat 32 n).toNat = n := toNat_ofNat_of_lt (by omega)
  rw [exec_crcMem_of_inMem (by simpa only [ha, hn] using h)]
  simp only [ha, hn]

/-- Settles O11: a legal range completes with its fold, an illegal one raises, and the bytes of two adjacent ranges are
those of the whole, one after the other. -/
theorem crcMemResult : Obligations.CrcMemResult := by
  refine ⟨by decide, fun s => exec_crcMem_of_inMem, fun s => exec_crcMem_of_outside, fun s a n k h => ?_⟩
  refine ⟨_, _, _, exec_crcMem_range s (by omega), exec_crcMem_range _ (show a + n + k ≤ s.params.memSize by omega),
    exec_crcMem_range s h, ?_⟩
  show crcFold (crcFold s.crcState (memRead s.mem a n)) (memRead s.mem (a + n) k) =
    crcFold s.crcState (memRead s.mem a (n + k))
  rw [memRead_append, crcFold_append]

end Sys2Proof.Machine
end

section
/-! Settles O13 to O23 (41_framer.md R231 to R240): the framer. First every outcome of `FR.START` and `FR.SIG`; then
`FR.CHUNK` in the order of its checks, the framing, the CRC, the place in the stream and the loader; then all that the
framer commands can do, said once for the frames and for the moves of the sequencer. -/

namespace Sys2Proof.Machine

/-! ### `FR.START` -/

theorem ofNat_toNat_add {w : Nat} (x : BitVec w) (n : Nat) : BitVec.ofNat w (x.toNat + n) = x + BitVec.ofNat w n := by
  rw [BitVec.ofNat_add, BitVec.ofNat_toNat, BitVec.setWidth_eq]

/-- A range in data memory is bounded by words without wrap (00_scope.md R9). -/
theorem toNat_add_of_inMem {s : State} (h : s.arg0.toNat + s.arg1.toNat ≤ s.params.memSize) :
    (s.arg0 + s.arg1).toNat = s.arg0.toNat + s.arg1.toNat := by
  have hsize := s.params.memSize_le
  exact BitVec.toNat_add_of_lt (by omega)

/-- 41_framer.md R232: the stream registers written, over a cleared configuration. -/
theorem exec_frStart_of_inMem {s : State} (h : s.arg0.toNat + s.arg1.toNat ≤ s.params.memSize) :
    exec .frStart s = .next (successNext { s with
      inPtr := s.arg0, inEnd := s.arg0 + s.arg1, seq := ⟨.expectSig, false, false, false⟩
      chunkLen := 0, chunkTag := 0, chunkCrc := 0, chunkCrcCalc := 0, chunkClass := .noneYet, chunkPayload := 0
      zbLen := 0, cfg := ImageConfig.cleared }) := by
  have hptr : BitVec.ofNat 32 s.arg0.toNat = s.arg0 := by rw [BitVec.ofNat_toNat, BitVec.setWidth_eq]
  have hend : BitVec.ofNat 32 (s.arg0.toNat + s.arg1.toNat) = s.arg0 + s.arg1 := by
    rw [BitVec.ofNat_add, hptr, BitVec.ofNat_toNat, BitVec.setWidth_eq]
  rcases frStartBody_cases s with ⟨-, hr⟩ | ⟨hout, -⟩
  · rw [exec, execFrStart, hr, openStream, hptr, hend]
    rfl
  · exact absurd h (Nat.not_le.mpr hout)

theorem exec_frStart_of_outside {s : State} (h : s.params.memSize < s.arg0.toNat + s.arg1.toNat) :
    exec .frStart s = .next (errorNext s 13 1) := by
  rcases frStartBody_cases s with ⟨hin, -⟩ | ⟨-, hr⟩
  · exact absurd hin (Nat.not_le.mpr h)
  · exact congrArg (finish s) hr

/-- What the registers with fields read after `FR.START` (10_state.md R45, R53, R56). -/
theorem seqWord_opened : seqWord ⟨.expectSig, false, false, false⟩ = 1 := by decide

theorem cfgValidWord_cleared : cfgValidWord ImageConfig.cleared.valid = 0 := by decide

theorem hdrFmtWord_cleared : hdrFmtWord ImageConfig.cleared.hdrFmt = 0 := by decide

/-- Settles O13: the state `FR.START` leaves, and that each register of a cleared configuration reads 0. -/
theorem frStartResult : Obligations.FrStartResult := by
  refine ⟨by decide, fun s => ⟨fun hin => ?_, exec_frStart_of_outside⟩⟩
  exact ⟨_, exec_frStart_of_inMem hin, rfl, toNat_add_of_inMem hin, seqWord_opened, rfl, cfgValidWord_cleared, rfl, rfl,
    hdrFmtWord_cleared, rfl, rfl, rfl, rfl, rfl, rfl, fun i => congrArg rgbWord (tableAt_replicate _ i),
    fun i => congrArg (BitVec.zeroExtend 32) (tableAt_replicate _ i)⟩

/-! ### `FR.SIG` -/

theorem exec_frSig_of_ne_expectSig {s : State} (hq : s.seq.state ≠ .expectSig) :
    exec .frSig s = .next (errorNext s 12 4) := by
  unfold exec execFrSig
  cases hstate : s.seq.state with
  | expectSig => exact absurd hstate hq
  | idle | expectIhdr | body | done | failed => rfl

theorem exec_frSig_of_expectSig {s : State} (hq : s.seq.state = .expectSig) :
    exec .frSig s = finishFramer s (frSigBody s) := by
  simp only [exec, execFrSig, hq]

section
variable {s : State} (hstream : s.inEnd.toNat ≤ s.params.memSize)
include hstream

theorem frSigBody_of_short (h : s.inEnd.toNat < s.inPtr.toNat + 8) : frSigBody s = .raise .signatureMismatch 1 := by
  simp [frSigBody, (streamInMem_iff s).mpr hstream, h]

theorem frSigBody_of_mismatch (h : s.inPtr.toNat + 8 ≤ s.inEnd.toNat)
    (hsig : memRead s.mem s.inPtr.toNat 8 ≠ Config.signature) : frSigBody s = .raise .signatureMismatch 2 := by
  simp [frSigBody, (streamInMem_iff s).mpr hstream, Nat.not_lt.mpr h, hsig]

theorem frSigBody_of_signature (h : s.inPtr.toNat + 8 ≤ s.inEnd.toNat)
    (hsig : memRead s.mem s.inPtr.toNat 8 = Config.signature) :
    frSigBody s = .ok { s with inPtr := s.inPtr + 8, seq := { s.seq with state := .expectIhdr } } := by
  simp [frSigBody, (streamInMem_iff s).mpr hstream, Nat.not_lt.mpr h, hsig, ofNat_toNat_add]

end

/-- Settles O14: the state check, and the body by its three outcomes. -/
theorem frSigResult : Obligations.FrSigResult := by
  refine ⟨by decide, fun s => ⟨exec_frSig_of_ne_expectSig, fun hq hstream => ?_⟩⟩
  rw [exec_frSig_of_expectSig hq]
  exact ⟨fun h => congrArg (finishFramer s) (frSigBody_of_short hstream h),
    fun h => ⟨fun hsig => congrArg (finishFramer s) (frSigBody_of_mismatch hstream h hsig),
      fun hsig => congrArg (finishFramer s) (frSigBody_of_signature hstream h hsig)⟩⟩

/-! ### `FR.CHUNK`: the state, the framing and the CRC -/

theorem exec_frChunk_of_not_started {s : State}
    (hq : s.seq.state = .idle ∨ s.seq.state = .expectSig ∨ s.seq.state = .failed) :
    exec .frChunk s = .next (errorNext s 12 4) := by
  rcases hq with hq | hq | hq <;> simp only [exec, execFrChunk, hq] <;> rfl

theorem exec_frChunk_of_done {s : State} (hq : s.seq.state = .done) :
    exec .frChunk s = .next (failedNext s 6 6) := by
  simp only [exec, execFrChunk, hq]
  rfl

/-- The framing checks that fail, in their order (41_framer.md R234). -/
theorem frameCheck_of_short_head {s : State} {p : Nat} (h : s.inEnd.toNat < p + 8) : frameCheck s p = some 1 := if_pos h

theorem frameCheck_of_long {s : State} {p : Nat} (hhead : p + 8 ≤ s.inEnd.toNat)
    (hlen : 104857600 < (be32 s.mem p).toNat) : frameCheck s p = some 2 :=
  (if_neg (Nat.not_lt.mpr hhead)).trans (if_pos hlen)

theorem frameCheck_of_short_payload {s : State} {p : Nat} (hhead : p + 8 ≤ s.inEnd.toNat)
    (hlen : (be32 s.mem p).toNat ≤ 104857600) (h : s.inEnd.toNat < p + 12 + (be32 s.mem p).toNat) :
    frameCheck s p = some 1 :=
  (if_neg (Nat.not_lt.mpr hhead)).trans ((if_neg (Nat.not_lt.mpr hlen)).trans (if_pos h))

theorem exec_frChunk_of_frameCheck_some {s : State} (hq : s.seq.state = .expectIhdr ∨ s.seq.state = .body)
    (hstream : s.inEnd.toNat ≤ s.params.memSize) {info : Word} (h : frameCheck s s.inPtr.toNat = some info) :
    exec .frChunk s = .next (failedNext s 2 info) := by
  rw [exec_frChunk_of_open hq, frChunkOpen, if_neg (by simp [(streamInMem_iff s).mpr hstream]), h]
  rfl

/-- A framed chunk with another CRC than the one stored (41_framer.md R234, R240). -/
theorem exec_frChunk_of_crc_mismatch {s : State} {len : Nat} {tag : Word}
    (hq : s.seq.state = .expectIhdr ∨ s.seq.state = .body) (h : ChunkFramed s len tag)
    (hcrc : crc32 (memRead s.mem (s.inPtr.toNat + 4) (4 + len)) ≠ be32 s.mem (s.inPtr.toNat + 8 + len)) :
    exec .frChunk s = .next (failedNext (calcChunkCrc s len) 2 3) := by
  obtain ⟨hstream, rfl, rfl, hle, hfits⟩ := h
  rw [exec_frChunk_of_open hq, frChunkOpen, if_neg (by simp [(streamInMem_iff s).mpr hstream]),
    frameCheck_eq_none.mpr ⟨hle, hfits⟩]
  exact congrArg (finishFramer _) (if_pos hcrc)

/-- Settles O15: the state, then each framing check that fails, then the CRC of a framed chunk. -/
theorem frChunkFramingErrors : Obligations.FrChunkFramingErrors := by
  refine fun s => ⟨exec_frChunk_of_not_started, exec_frChunk_of_done, fun hq hstream => ⟨fun h => ?_,
    fun hhead h => ?_, fun hhead hlen h => ?_, fun hlen hfits hcrc => ?_⟩⟩
  · exact exec_frChunk_of_frameCheck_some hq hstream (frameCheck_of_short_head h)
  · exact exec_frChunk_of_frameCheck_some hq hstream (frameCheck_of_long hhead h)
  · exact exec_frChunk_of_frameCheck_some hq hstream (frameCheck_of_short_payload hhead hlen h)
  · exact exec_frChunk_of_crc_mismatch hq ⟨hstream, rfl, rfl, hlen, hfits⟩ hcrc

/-! ### One flipped bit -/

/-- A range split at one of its bytes. -/
theorem memRead_split (m : Memory) (a n k : Nat) :
    memRead m a (n + (k + 1)) = memRead m a n ++ memByte m (a + n) :: memRead m (a + n + 1) k :=
  memRead_append m a n (k + 1)

theorem memRead_setByte_outside (m : Memory) {a x n : Nat} (b : Byte) (h : ¬(x ≤ a ∧ a < x + n)) :
    memRead (setByte m a b) x n = memRead m x n :=
  memRead_congr fun k hk => memByte_setByte_other m b (by omega)

theorem be32_setByte_outside (m : Memory) {a x : Nat} (b : Byte) (h : ¬(x ≤ a ∧ a < x + 4)) :
    be32 (setByte m a b) x = be32 m x := by
  unfold be32
  rw [memByte_setByte_other _ _ (by omega), memByte_setByte_other _ _ (by omega),
    memByte_setByte_other _ _ (by omega), memByte_setByte_other _ _ (by omega)]

/-- 40_crc.md R207, of a range of data memory: a flipped bit inside the range changes its CRC. -/
theorem crc32_memRead_flipBit_ne {m : Memory} (hwf : Memory.wf m) {x n a : Nat} (hle : x ≤ a) (hlt : a < x + n)
    (k : Fin 8) :
    crc32 (memRead (setByte m a (flipBit (memByte m a) k)) x n) ≠ crc32 (memRead m x n) := by
  obtain ⟨before, rfl⟩ := Nat.exists_eq_add_of_le hle
  obtain ⟨after, rfl⟩ : ∃ after, n = before + (after + 1) := ⟨n - before - 1, by omega⟩
  rw [memRead_split, memRead_split, memByte_setByte_same hwf, memRead_setByte_outside _ _ (by omega),
    memRead_setByte_outside _ _ (by omega)]
  exact crcDetectsEverySingleBitChange _ _ _ _

/-- A byte changed after the length field leaves the chunk framed (41_framer.md R234). -/
theorem ChunkFramed.withByte {s : State} {len : Nat} {tag : Word} (h : ChunkFramed s len tag) {a : Nat}
    (ha : s.inPtr.toNat + 4 ≤ a) (b : Byte) :
    ChunkFramed { s with mem := setByte s.mem a b } len (be32 (setByte s.mem a b) (s.inPtr.toNat + 4)) :=
  { h with
    len_eq := h.len_eq.trans (congrArg BitVec.toNat (be32_setByte_outside s.mem b (by omega)).symm)
    tag_eq := rfl }

/-- Settles O22: the flip leaves the length and the stored CRC alone and changes the calculated one. -/
theorem flippedBitIsCorrupt : Obligations.FlippedBitIsCorrupt := by
  intro s len tag a k hwf hq h hge hlt
  refine ⟨_, exec_frChunk_of_crc_mismatch hq (h.toChunkFramed.withByte hge _) ?_, rfl, rfl, rfl, rfl, rfl, rfl, rfl, rfl⟩
  have hcalc := crc32_memRead_flipBit_ne (n := 4 + len) hwf hge (by omega) k
  rwa [← h.crc, ← be32_setByte_outside s.mem _ (show ¬(s.inPtr.toNat + 8 + len ≤ a ∧ _) by omega)] at hcalc

/-! ### `FR.CHUNK`: the place in the stream -/

theorem classify_eq_header_iff (tag : Word) : classify tag = .header ↔ tag = 0x49484452 := by
  refine ⟨fun h => ?_, fun h => if_pos h⟩
  by_contra hne
  rw [classify, if_neg (show tag ≠ Config.tagIhdr from hne)] at h
  repeat' split at h
  all_goals cases h

theorem classify_eq_other {tag : Word} (hihdr : tag ≠ 0x49484452) (hplte : tag ≠ 0x504C5445) (htrns : tag ≠ 0x74524E53)
    (hidat : tag ≠ 0x49444154) (hiend : tag ≠ 0x49454E44) : classify tag = .other :=
  (if_neg hihdr).trans ((if_neg hplte).trans ((if_neg htrns).trans ((if_neg hidat).trans (if_neg hiend))))

theorem exec_frChunk_of_order_error {s : State} {len : Nat} {tag info : Word}
    (hq : s.seq.state = .expectIhdr ∨ s.seq.state = .body) (h : ChunkSound s len tag)
    (horder : checkOrder s.seq (classify tag) = some info) :
    exec .frChunk s = .next (failedNext (calcChunkCrc s len) 6 info) := by
  have hbody (p : Nat) (stored : Word) :
      frAccept (calcChunkCrc s len) p len tag stored = .raise .outOfOrderChunk info := by
    have horder' : checkOrder (calcChunkCrc s len).seq (classify tag) = some info := horder
    simp only [frAccept, horder']
  rw [exec_frChunk_of_sound hq h, hbody]
  rfl

/-- Settles O16: each order check of a sound chunk, on the class of its tag. -/
theorem frChunkOrderErrors : Obligations.FrChunkOrderErrors := by
  refine fun s len tag h => ⟨fun hq htag => ?_, fun hq htag => ?_, fun hq htag hseen => ?_, fun hq htag hseen => ?_,
    fun hq htag hseen => ?_⟩
  · exact exec_frChunk_of_order_error (.inl hq) h (if_pos ⟨hq, mt (classify_eq_header_iff tag).mp htag⟩)
  all_goals
    subst htag
    refine exec_frChunk_of_order_error (.inr hq) h ?_
  · show checkOrder s.seq .header = some 2
    simp [checkOrder, hq]
  · show checkOrder s.seq .palette = some 3
    simp [checkOrder, hq, hseen]
  · show checkOrder s.seq .transparency = some 3
    simp [checkOrder, hq, hseen]
  · show checkOrder s.seq .endMarker = some 5
    simp [checkOrder, hq, hseen]

/-! ### `FR.CHUNK`: the loader -/

/-- What a sound chunk in its place answers, from its loader's answer on the payload (41_framer.md R234, R237, R239). -/
theorem exec_frChunk_of_dispatch {s : State} {len : Nat} {tag : Word}
    (hq : s.seq.state = .expectIhdr ∨ s.seq.state = .body) (h : ChunkSound s len tag)
    (horder : checkOrder s.seq (classify tag) = none) :
    (∀ e info, dispatchChunk (classify tag) (calcChunkCrc s len) (s.inPtr.toNat + 8) len = .raise e info →
      exec .frChunk s = .next (failedNext (calcChunkCrc s len) (errorCode e) info)) ∧
    (∀ c z m, dispatchChunk (classify tag) (calcChunkCrc s len) (s.inPtr.toNat + 8) len =
        .ok { calcChunkCrc s len with cfg := c, zbLen := z, mem := m } →
      exec .frChunk s = .next (chunkNext s { s with cfg := c, zbLen := z, mem := m } len tag (classify tag)
        (seqAdvance s.seq (classify tag)))) := by
  have horder' : checkOrder (calcChunkCrc s len).seq (classify tag) = none := horder
  rw [exec_frChunk_of_sound hq h]
  refine ⟨fun e info hr => ?_, fun c z m hr => ?_⟩
  · simp only [frAccept, horder', hr]
    rfl
  · have hptr : BitVec.ofNat 32 (s.inPtr.toNat + 12 + len) = s.inPtr + 12 + BitVec.ofNat 32 len := by
      rw [BitVec.ofNat_add, ofNat_toNat_add]
      rfl
    have hpayload : BitVec.ofNat 32 (s.inPtr.toNat + 8) = s.inPtr + 8 := ofNat_toNat_add _ _
    simp only [frAccept, horder', hr, acceptChunk, hptr, hpayload]
    rfl

/-- Settles O17: the two classes have no loader, and only the end marker moves the sequencer. -/
theorem frChunkSkipsOtherAndEndChunks : Obligations.FrChunkSkipsOtherAndEndChunks := by
  refine fun s len tag hq h => ⟨fun hihdr hplte htrns hidat hiend => ?_, fun htag hseen => ?_⟩
  · have hcls := classify_eq_other hihdr hplte htrns hidat hiend
    have horder : checkOrder s.seq (classify tag) = none := by simp [checkOrder, hq, hcls]
    have hok := (exec_frChunk_of_dispatch (.inr hq) h horder).2 s.cfg s.zbLen s.mem
    rw [hcls] at hok
    exact hok rfl
  · subst htag
    have horder : checkOrder s.seq .endMarker = none := by simp [checkOrder, hq, hseen]
    exact (exec_frChunk_of_dispatch (.inr hq) h horder).2 s.cfg s.zbLen s.mem rfl

section
variable {s : State} {a n : Nat}

theorem zbAppend_of_buffer_outside (h : s.params.memSize < s.zbBase.toNat + s.zbCap.toNat) :
    zbAppend s a n = .raise .badAddress 2 := by
  simp [zbAppend, (inMem_false_iff _ _ _).mpr h]

theorem zbAppend_of_full (hbuf : s.zbBase.toNat + s.zbCap.toNat ≤ s.params.memSize)
    (h : s.zbCap.toNat < s.zbLen.toNat + n) : zbAppend s a n = .raise .allocationFailed 1 := by
  simp [zbAppend, (inMem_iff _ _ _).mpr hbuf, h]

theorem zbAppend_of_fits (hbuf : s.zbBase.toNat + s.zbCap.toNat ≤ s.params.memSize)
    (hroom : s.zbLen.toNat + n ≤ s.zbCap.toNat) :
    zbAppend s a n = .ok { s with
      mem := memWrite s.mem (s.zbBase.toNat + s.zbLen.toNat) (memRead s.mem a n)
      zbLen := s.zbLen + BitVec.ofNat 32 n } := by
  simp [zbAppend, (inMem_iff _ _ _).mpr hbuf, Nat.not_lt.mpr hroom, ofNat_toNat_add]

end

/-- A range copied within a canonical memory stands at its destination, whatever the overlap (00_scope.md R15). -/
theorem memByte_memWrite_memRead {m : Memory} (hwf : Memory.wf m) (dst a : Nat) {n k : Nat} (hk : k < n) :
    memByte (memWrite m dst (memRead m a n)) (dst + k) = memByte m (a + k) := by
  have hlen : k < (memRead m a n).length := by rwa [memRead_length]
  rw [memByte_memWrite_inside hwf dst _ hlen, memRead_getElem]

theorem memByte_memWrite_memRead_outside (m : Memory) {dst a n b : Nat} (h : ¬(dst ≤ b ∧ b < dst + n)) :
    memByte (memWrite m dst (memRead m a n)) b = memByte m b :=
  memByte_memWrite_outside m _ (by rwa [memRead_length])

/-- Settles O18: the loader of an image-data chunk copies the payload, or refuses the buffer. -/
theorem frChunkAppendsImageData : Obligations.FrChunkAppendsImageData := by
  intro s len hwf hq h
  have horder : checkOrder s.seq .imageData = none := by simp [checkOrder, hq]
  obtain ⟨hraise, hok⟩ := exec_frChunk_of_dispatch (.inr hq) h horder
  refine ⟨fun hbuf hroom => ?_, fun hbuf => ?_, fun hbuf hroom => ?_⟩
  · exact ⟨_, hok _ _ _ (zbAppend_of_fits hbuf hroom), rfl, fun k => memByte_memWrite_memRead hwf _ _,
      fun b => memByte_memWrite_memRead_outside s.mem⟩
  · exact hraise _ _ (zbAppend_of_buffer_outside hbuf)
  · exact hraise _ _ (zbAppend_of_full hbuf hroom)

/-! ### `FR.CHUNK` and the loader commands -/

/-- A body's answer with its state changed. -/
def Res.map {α β : Type} (f : α → β) : Res α → Res β
  | .ok a => .ok (f a)
  | .raise e info => .raise e info
  | .stop r => .stop r

/-- The state with the registers in which the state a loader command gives its loader differs from the one `FR.CHUNK`
gives it: the arguments and `CHUNK_CRC_CALC`. -/
def withPayloadRegs (s : State) (src n crc : Word) : State :=
  { s with arg0 := src, arg1 := n, chunkCrcCalc := crc }

section
variable (s : State) (x y z : Word) (a n : Nat)

theorem headerLoad_withPayloadRegs :
    headerLoad (withPayloadRegs s x y z) a n = (headerLoad s a n).map (withPayloadRegs · x y z) := by
  simp only [headerLoad, withPayloadRegs]
  split
  · rfl
  · split <;> rfl

theorem paletteLoad_withPayloadRegs :
    paletteLoad (withPayloadRegs s x y z) a n = (paletteLoad s a n).map (withPayloadRegs · x y z) := by
  simp only [paletteLoad, apply_ite (Res.map _)]
  rfl

theorem trnsLoad_withPayloadRegs :
    trnsLoad (withPayloadRegs s x y z) a n = (trnsLoad s a n).map (withPayloadRegs · x y z) := by
  simp only [trnsLoad, apply_ite (Res.map _)]
  refine ite_congr rfl (fun _ => rfl) fun _ => ?_
  simp only [withPayloadRegs]
  split
  · rfl
  · rfl
  · rfl
  all_goals
    simp only [apply_ite (Res.map _)]
    rfl

end

/-- A loader that writes the configuration only, and neither reads the arguments nor `CHUNK_CRC_CALC` (42_loaders.md
R271, R275, R277). -/
structure ConfigLoader (body : State → Nat → Nat → Res State) : Prop where
  writes : ∀ {s u : State} {a n : Nat}, body s a n = .ok u → ∃ c, u = { s with cfg := c }
  payloadRegs : ∀ (s : State) (x y z : Word) (a n : Nat),
    body (withPayloadRegs s x y z) a n = (body s a n).map (withPayloadRegs · x y z)

theorem headerLoad_configLoader : ConfigLoader headerLoad := ⟨headerLoad_writes, headerLoad_withPayloadRegs⟩

theorem paletteLoad_configLoader : ConfigLoader paletteLoad where
  writes h := by
    obtain ⟨k, p, v, rfl⟩ := paletteLoad_writes h
    exact ⟨_, rfl⟩
  payloadRegs := paletteLoad_withPayloadRegs

theorem trnsLoad_configLoader : ConfigLoader trnsLoad where
  writes h := by
    obtain ⟨k0, k1, k2, al, rfl⟩ := trnsLoad_ok h
    exact ⟨_, rfl⟩
  payloadRegs := trnsLoad_withPayloadRegs

/-- The state in which a loader command runs on the payload of the chunk at `IN_PTR`. -/
def withChunkArgs (s : State) (len : Nat) : State := { s with arg0 := s.inPtr + 8, arg1 := BitVec.ofNat 32 len }

/-- The payload of a framed chunk lies in data memory, so the loader command runs its loader on it. -/
theorem onPayload_withChunkArgs {s : State} {len : Nat} {tag : Word} (h : ChunkFramed s len tag)
    (body : State → Nat → Nat → Res State) :
    onPayload body (withChunkArgs s len) = body (withChunkArgs s len) (s.inPtr.toNat + 8) len := by
  obtain ⟨hstream, -, -, -, hfits⟩ := h
  have hsize := s.params.memSize_le
  have hsrc : (withChunkArgs s len).arg0.toNat = s.inPtr.toNat + 8 :=
    BitVec.toNat_add_of_lt (show s.inPtr.toNat + 8 < 2 ^ 32 by omega)
  have hlen : (withChunkArgs s len).arg1.toNat = len := toNat_ofNat_of_lt (by omega)
  have hin : s.inPtr.toNat + 8 + len ≤ (withChunkArgs s len).params.memSize := show _ ≤ s.params.memSize by omega
  rw [onPayload, srcAddr, srcLen, hsrc, hlen, if_pos ((inMem_iff _ _ _).mpr hin)]

/-- A sound chunk in its place does what the command that runs its loader on the payload does (41_framer.md R237,
R239). -/
theorem exec_frChunk_agrees {s u : State} {len : Nat} {tag : Word}
    (hq : s.seq.state = .expectIhdr ∨ s.seq.state = .body) (h : ChunkSound s len tag)
    (horder : checkOrder s.seq (classify tag) = none) (hload : ConfigLoader (dispatchChunk (classify tag)))
    (hu : finish (withChunkArgs s len) (onPayload (dispatchChunk (classify tag)) (withChunkArgs s len)) = .next u) :
    (u.status.err = false → exec .frChunk s =
      .next (chunkNext s { s with cfg := u.cfg } len tag (classify tag) (seqAdvance s.seq (classify tag)))) ∧
    (u.status.err = true →
      exec .frChunk s = .next (failedNext (calcChunkCrc s len) u.status.errCode u.errInfo)) := by
  obtain ⟨hraise, hok⟩ := exec_frChunk_of_dispatch hq h horder
  have hdispatch := hload.payloadRegs (withChunkArgs s len) s.arg0 s.arg1 (calcChunkCrc s len).chunkCrcCalc
    (s.inPtr.toNat + 8) len
  rw [onPayload_withChunkArgs h.toChunkFramed] at hu
  rcases finish_next hu with ⟨v, hv, rfl⟩ | ⟨e, info, hv, rfl⟩
  · obtain ⟨c, rfl⟩ := hload.writes hv
    rw [hv] at hdispatch
    exact ⟨fun _ => hok c s.zbLen s.mem hdispatch, nofun⟩
  · rw [hv] at hdispatch
    exact ⟨nofun, fun _ => hraise e info hdispatch⟩

/-- Settles O19: each of the three loaders is a `ConfigLoader`, and the chunk is in its place. -/
theorem frChunkAgreesWithLoaders : Obligations.FrChunkAgreesWithLoaders := by
  refine fun s u len tag h => ⟨fun hq htag hu => ?_, fun hq htag hseen hu => ?_, fun hq htag hseen hu => ?_⟩
  all_goals subst htag
  · have horder : checkOrder s.seq .header = none := by simp [checkOrder, hq]
    exact exec_frChunk_agrees (.inl hq) h horder headerLoad_configLoader hu
  · have horder : checkOrder s.seq .palette = none := by simp [checkOrder, hq, hseen]
    exact exec_frChunk_agrees (.inr hq) h horder paletteLoad_configLoader hu
  · have horder : checkOrder s.seq .transparency = none := by simp [checkOrder, hq, hseen]
    exact exec_frChunk_agrees (.inr hq) h horder trnsLoad_configLoader hu

/-! ### All that the framer commands can do -/

/-- The states `FR.SIG` can leave (41_framer.md R233, R239). -/
inductive FrSigNext (s : State) : State → Prop
  | wrongState (hq : s.seq.state ≠ .expectSig) : FrSigNext s (raiseError s .badCommand 4)
  | failed (hq : s.seq.state = .expectSig) (info : Word) : FrSigNext s (failStream s .signatureMismatch info)
  | signature (hq : s.seq.state = .expectSig) (p : Word) :
    FrSigNext s (complete { s with inPtr := p, seq := { s.seq with state := .expectIhdr } })

theorem frSigNext_of_exec {s t : State} (h : exec .frSig s = .next t) : FrSigNext s t := by
  by_cases hq : s.seq.state = .expectSig
  · rw [exec_frSig_of_expectSig hq] at h
    rcases frSigBody_cases s with ⟨-, hr⟩ | ⟨-, -, hr⟩ | hr | hr <;> rw [hr] at h
    · cases h
    · obtain rfl := Host.Outcome.next.inj h
      exact .signature hq _
    all_goals
      obtain rfl := Host.Outcome.next.inj h
      exact .failed hq _
  · obtain rfl := Host.Outcome.next.inj ((exec_frSig_of_ne_expectSig hq).symm.trans h)
    exact .wrongState hq

/-- The states `FR.CHUNK` can leave (41_framer.md R234, R239): a failure may have written `CHUNK_CRC_CALC` and is no
`BadCommand`; an accepted chunk passed the order check and its loader. -/
inductive FrChunkNext (s : State) : State → Prop
  | wrongState (hq : s.seq.state = .idle ∨ s.seq.state = .expectSig ∨ s.seq.state = .failed) :
    FrChunkNext s (raiseError s .badCommand 4)
  | failed (hq : s.seq.state = .expectIhdr ∨ s.seq.state = .body ∨ s.seq.state = .done) (crc : Word) {e : ErrorKind}
    (he : e ≠ .badCommand) (info : Word) : FrChunkNext s (failStream { s with chunkCrcCalc := crc } e info)
  | accepted (hq : s.seq.state = .expectIhdr ∨ s.seq.state = .body) {len : Nat}
    (hlen : len = (be32 s.mem s.inPtr.toNat).toNat) {tag : Word} (horder : checkOrder s.seq (classify tag) = none)
    {u : State} (hu : dispatchChunk (classify tag) (calcChunkCrc s len) (s.inPtr.toNat + 8) len = .ok u)
    (stored : Word) : FrChunkNext s (complete (acceptChunk u s.inPtr.toNat len tag stored (classify tag)))

/-- No loader raises `BadCommand` (60_exceptions.md R403). -/
theorem dispatchChunk_raise_ne_badCommand {cls : ChunkClass} {s : State} {a n : Nat} {e : ErrorKind} {info : Word}
    (h : dispatchChunk cls s a n = .raise e info) : e ≠ .badCommand := by
  rintro rfl
  cases cls with
  | header =>
    rcases headerLoad_cases s a n with ⟨-, -, hr⟩ | ⟨info, -, hr⟩
    all_goals cases hr.symm.trans h
  | palette =>
    rcases paletteLoad_cases s a n with ⟨-, -, -, -, hr⟩ | ⟨-, hr⟩ | ⟨-, hr | hr | hr⟩
    all_goals cases hr.symm.trans h
  | transparency =>
    rcases trnsLoad_cases s a n with ⟨u, hr, -⟩ | ⟨-, hr⟩ | ⟨-, hr | hr | hr⟩ | ⟨-, -, hr⟩
    all_goals cases hr.symm.trans h
  | imageData =>
    rcases zbAppend_cases s a n with ⟨-, -, hr⟩ | hr | hr
    all_goals cases hr.symm.trans h
  | noneYet | endMarker | other => cases h

theorem frChunkNext_of_framed {s t : State} (hq : s.seq.state = .expectIhdr ∨ s.seq.state = .body) {len : Nat}
    (hlen : len = (be32 s.mem s.inPtr.toNat).toNat) {tag stored : Word}
    (h : finishFramer (calcChunkCrc s len) (frCheckCrc (calcChunkCrc s len) s.inPtr.toNat len tag stored) = .next t) :
    FrChunkNext s t := by
  have hq' := hq.imp_right (Or.inl (b := s.seq.state = .done))
  rcases frCheckCrc_cases (calcChunkCrc s len) s.inPtr.toNat len tag stored with
    ⟨-, hr⟩ | ⟨-, info, -, hr⟩ | ⟨-, horder, ⟨u, hu, hr⟩ | ⟨e, info, he, hr⟩ | ⟨f, -, hr⟩⟩ <;> rw [hr] at h
  · obtain rfl := Host.Outcome.next.inj h
    exact .failed hq' _ (e := .truncatedOrCorrupt) nofun 3
  · obtain rfl := Host.Outcome.next.inj h
    exact .failed hq' _ (e := .outOfOrderChunk) nofun info
  · obtain rfl := Host.Outcome.next.inj h
    exact .accepted hq hlen horder hu stored
  · obtain rfl := Host.Outcome.next.inj h
    exact .failed hq' _ (dispatchChunk_raise_ne_badCommand he) info
  · cases h

theorem frChunkNext_of_open {s t : State} (hq : s.seq.state = .expectIhdr ∨ s.seq.state = .body)
    (h : frChunkOpen s = .next t) : FrChunkNext s t := by
  rcases frChunkOpen_cases s with ⟨-, hr⟩ | ⟨-, ⟨info, -, hr⟩ | ⟨-, -, hr⟩⟩
  · cases hr.symm.trans h
  · obtain rfl := Host.Outcome.next.inj (hr.symm.trans h)
    exact .failed (hq.imp_right .inl) s.chunkCrcCalc (e := .truncatedOrCorrupt) nofun info
  · exact frChunkNext_of_framed hq rfl (hr.symm.trans h)

theorem frChunkNext_of_exec {s t : State} (h : exec .frChunk s = .next t) : FrChunkNext s t := by
  cases hq : s.seq.state with
  | idle | expectSig | failed =>
    have hq' : s.seq.state = .idle ∨ s.seq.state = .expectSig ∨ s.seq.state = .failed := by simp [hq]
    obtain rfl := Host.Outcome.next.inj ((exec_frChunk_of_not_started hq').symm.trans h)
    exact .wrongState hq'
  | done =>
    obtain rfl := Host.Outcome.next.inj ((exec_frChunk_of_done hq).symm.trans h)
    exact .failed (.inr (.inr hq)) s.chunkCrcCalc (e := .outOfOrderChunk) nofun 6
  | expectIhdr => exact frChunkNext_of_open (.inl hq) ((exec_frChunk_of_open (.inl hq)).symm.trans h)
  | body => exact frChunkNext_of_open (.inr hq) ((exec_frChunk_of_open (.inr hq)).symm.trans h)

/-! ### The frames -/

/-- Only an image-data chunk's loader writes data memory, and only what it appends (42_loaders.md R279). -/
theorem dispatchChunk_mem {cls : ChunkClass} {s u : State} {a n : Nat} (h : dispatchChunk cls s a n = .ok u) :
    (cls ≠ .imageData ∧ u.mem = s.mem) ∨
      (cls = .imageData ∧ u.mem = memWrite s.mem (s.zbBase.toNat + s.zbLen.toNat) (memRead s.mem a n)) := by
  cases cls with
  | header =>
    obtain ⟨c, rfl⟩ := headerLoad_writes h
    exact .inl ⟨nofun, rfl⟩
  | palette =>
    obtain ⟨k, p, v, rfl⟩ := paletteLoad_writes h
    exact .inl ⟨nofun, rfl⟩
  | transparency =>
    obtain ⟨k0, k1, k2, al, rfl⟩ := trnsLoad_ok h
    exact .inl ⟨nofun, rfl⟩
  | imageData =>
    rcases zbAppend_cases s a n with ⟨-, -, hr⟩ | hr | hr
    · obtain rfl := Res.ok.inj (hr.symm.trans h)
      exact .inr ⟨rfl, rfl⟩
    all_goals cases hr.symm.trans h
  | noneYet | endMarker | other =>
    obtain rfl := Res.ok.inj h
    exact .inl ⟨nofun, rfl⟩

/-- Settles O20: a failure keeps data memory, and so does every loader but the one of image data. -/
theorem frChunkMemoryFrame : Obligations.FrChunkMemoryFrame := by
  intro s t h
  cases frChunkNext_of_exec h with
  | wrongState | failed => exact ⟨fun _ => rfl, fun _ _ => rfl⟩
  | accepted hq hlen horder hu stored =>
    rcases dispatchChunk_mem hu with ⟨-, hmem⟩ | ⟨hcls, hmem⟩
    · exact ⟨fun _ => hmem, fun a _ => congrArg (memByte · a) hmem⟩
    · refine ⟨fun hor => ?_, fun a ha => ?_⟩
      · rcases hor with herr | hne
        · cases herr
        · exact absurd hcls hne
      · rw [← hlen] at ha
        exact (congrArg (memByte · a) hmem).trans (memByte_memWrite_memRead_outside s.mem ha)

/-- `BadCommand` alone has the code 12 (60_exceptions.md R401). -/
theorem errorCode_eq_twelve_iff (e : ErrorKind) : errorCode e = 12 ↔ e = .badCommand := by
  cases e <;> decide

/-- Settles O21: the wrong state is `BadCommand(4)`, and every other failure is another kind, through `failStream`. -/
theorem framerFailureKeepsRegisters : Obligations.FramerFailureKeepsRegisters := by
  rintro i s t (rfl | rfl) h herr
  · cases frSigNext_of_exec h with
    | wrongState => exact ⟨rfl, fun _ => ⟨rfl, rfl, rfl⟩, fun hcode => absurd rfl hcode, fun _ => rfl⟩
    | failed => exact ⟨rfl, nofun, fun _ => rfl, fun _ => rfl⟩
    | signature => cases herr
  · cases frChunkNext_of_exec h with
    | wrongState => exact ⟨rfl, fun _ => ⟨rfl, rfl, rfl⟩, fun hcode => absurd rfl hcode, nofun⟩
    | failed hq crc he =>
      exact ⟨rfl, fun hcode => absurd ((errorCode_eq_twelve_iff _).mp hcode) he, fun _ => rfl, nofun⟩
    | accepted => cases herr

/-! ### The moves of the sequencer -/

theorem seq_of_frStart {s t : State} (h : exec .frStart s = .next t) :
    (t.status.err = false → t.seq = ⟨.expectSig, false, false, false⟩) ∧ (t.status.err = true → t.seq = s.seq) := by
  rcases Nat.lt_or_ge s.params.memSize (s.arg0.toNat + s.arg1.toNat) with hout | hin
  · obtain rfl := Host.Outcome.next.inj ((exec_frStart_of_outside hout).symm.trans h)
    exact ⟨nofun, fun _ => rfl⟩
  · obtain rfl := Host.Outcome.next.inj ((exec_frStart_of_inMem hin).symm.trans h)
    exact ⟨fun _ => rfl, nofun⟩

/-- Only `SRESET` and the framer commands write `SEQ` (41_framer.md R231). -/
theorem exec_keeps_seq {i : Instr} {s t : State} (h : exec i s = .next t) (hsreset : i ≠ .sreset)
    (hstart : i ≠ .frStart) (hsig : i ≠ .frSig) (hchunk : i ≠ .frChunk) : t.seq = s.seq := by
  obtain ⟨hnop, hcrcInit, hcrcByte, hcrcMem, hcrcFinal, -, -, -, hldHdr, hldPlte, hldTrns, hzbAppend, hdefilt, hfltByte,
    hsample, hconv⟩ := registersEachCommandWrites s t
  cases i with
  | sreset => exact absurd rfl hsreset
  | frStart => exact absurd rfl hstart
  | frSig => exact absurd rfl hsig
  | frChunk => exact absurd rfl hchunk
  | nop => exact (congrArg State.seq (hnop h) :)
  | crcInit => exact (congrArg State.seq (hcrcInit h) :)
  | crcByte b => exact (congrArg State.seq (hcrcByte b h) :)
  | crcMem => exact (congrArg State.seq (hcrcMem h) :)
  | crcFinal => exact (congrArg State.seq (hcrcFinal h) :)
  | ldHdr => exact (congrArg State.seq (hldHdr h) :)
  | ldPlte => exact (congrArg State.seq (hldPlte h) :)
  | ldTrns => exact (congrArg State.seq (hldTrns h) :)
  | zbAppend => exact (congrArg State.seq (hzbAppend h) :)
  | defilt => exact (congrArg State.seq (hdefilt h) :)
  | fltByte f => exact (congrArg State.seq (hfltByte f h) :)
  | sample d => exact (congrArg State.seq (hsample d h) :)
  | conv => exact (congrArg State.seq (hconv h) :)

/-- An accepted chunk: its class passed the order check and moves the sequencer (41_framer.md R236, R238). -/
theorem seq_of_frChunk_accepted {s t : State} (h : exec .frChunk s = .next t) (herr : t.status.err = false) :
    checkOrder s.seq t.chunkClass = none ∧ t.seq = seqAdvance s.seq t.chunkClass := by
  cases frChunkNext_of_exec h with
  | wrongState | failed => cases herr
  | accepted hq hlen horder hu stored =>
    obtain ⟨hseq, -, -⟩ := dispatchChunk_ok hu
    exact ⟨horder, congrArg (seqAdvance · _) hseq⟩

/-- `seq_advance` in BODY (41_framer.md R238). -/
theorem seqAdvance_of_body {q : Seq} (hq : q.state = .body) {cls : ChunkClass} (hne : cls ≠ .header) :
    ((seqAdvance q cls).state = .done ↔ cls = .endMarker) ∧
      ((seqAdvance q cls).state = .done ∨ (seqAdvance q cls).state = .body) ∧
      (seqAdvance q cls).seenPlte = (q.seenPlte || decide (cls = .palette)) ∧
      (seqAdvance q cls).seenTrns = (q.seenTrns || decide (cls = .transparency)) ∧
      (seqAdvance q cls).seenIdat = (q.seenIdat || decide (cls = .imageData)) := by
  cases cls with
  | header => exact absurd rfl hne
  | _ => simp [seqAdvance, hq]

/-- A failure of `FR.CHUNK` in a state in which it may run (41_framer.md R239). -/
theorem seq_of_frChunk_failed {s t : State} (h : exec .frChunk s = .next t)
    (hq : s.seq.state = .expectIhdr ∨ s.seq.state = .body ∨ s.seq.state = .done) (herr : t.status.err = true) :
    t.seq = { s.seq with state := .failed } := by
  cases frChunkNext_of_exec h with
  | wrongState hwrong => rcases hq with hq | hq | hq <;> simp [hq] at hwrong
  | failed => rfl
  | accepted => cases herr

/-- Settles O23: the framer commands by what they can leave, every other command by the registers it writes. -/
theorem sequencerMoves : Obligations.SequencerMoves := by
  intro i s t h
  refine ⟨?sreset, ?startOk, ?startError, exec_keeps_seq h, ?sigWrong, ?chunkWrong, ?sigOk, ?sigError, ?chunkHeader,
    ?chunkBody, ?chunkError⟩ <;> rintro rfl
  case sreset =>
    obtain rfl := Host.Outcome.next.inj h
    rfl
  case startOk => exact (seq_of_frStart h).1
  case startError => exact (seq_of_frStart h).2
  case sigWrong =>
    intro hq
    obtain rfl := Host.Outcome.next.inj ((exec_frSig_of_ne_expectSig hq).symm.trans h)
    rfl
  case chunkWrong =>
    intro hq
    obtain rfl := Host.Outcome.next.inj ((exec_frChunk_of_not_started hq).symm.trans h)
    rfl
  case sigOk =>
    intro hq herr
    cases frSigNext_of_exec h with
    | wrongState | failed => cases herr
    | signature => rfl
  case sigError =>
    intro hq herr
    cases frSigNext_of_exec h with
    | wrongState hne => exact absurd hq hne
    | failed => rfl
    | signature => cases herr
  case chunkHeader =>
    intro hq herr
    obtain ⟨horder, hseq⟩ := seq_of_frChunk_accepted h herr
    have hcls := checkOrder_expectIhdr hq horder
    exact ⟨hseq.trans (congrArg (seqAdvance s.seq) hcls), hcls⟩
  case chunkBody =>
    intro hq herr
    obtain ⟨horder, hseq⟩ := seq_of_frChunk_accepted h herr
    obtain ⟨hne, -⟩ := checkOrder_body hq horder
    rw [hseq]
    exact seqAdvance_of_body hq hne
  case chunkError => exact seq_of_frChunk_failed h

end Sys2Proof.Machine
end

section
/-! Settles O25 to O28 (42_loaders.md R270 to R279): the loader commands. Each command's payload must lie in data
memory; then each loader's answer under each header, with its checks in order, and the tables it writes read back entry
by entry. -/

namespace Sys2Proof.Machine

/-! ### The payload of a loader command -/

section
variable {s : State} (body : State → Nat → Nat → Res State)

theorem finish_onPayload_of_outside (h : s.params.memSize < s.arg0.toNat + s.arg1.toNat) :
    finish s (onPayload body s) = .next (errorNext s 13 1) :=
  congrArg (finish s) (if_neg (by simp [srcAddr, srcLen, (inMem_false_iff _ _ _).mpr h]))

theorem finish_onPayload_of_inMem (h : s.arg0.toNat + s.arg1.toNat ≤ s.params.memSize) :
    finish s (onPayload body s) = finish s (body s s.arg0.toNat s.arg1.toNat) :=
  congrArg (finish s) (if_pos ((inMem_iff _ _ _).mpr h))

end

/-! ### `LD.HDR` -/

/-- The legal pairs of a colour code and a depth (42_loaders.md R272). -/
def legalPairs : List (Nat × Nat) :=
  [(0, 1), (0, 2), (0, 4), (0, 8), (0, 16), (2, 8), (2, 16), (3, 1), (3, 2), (3, 4), (3, 8), (4, 8), (4, 16), (6, 8),
    (6, 16)]

theorem mem_legalPairs_iff {color : Byte} {mode : ColorMode} (hmode : colorModeOf color = some mode) (d : Nat) :
    (color.toNat, d) ∈ legalPairs ↔ depthLegal mode d = true := by
  rcases (colorModeOf_eq_some_iff color mode).mp hmode with ⟨rfl, rfl⟩ | ⟨rfl, rfl⟩ | ⟨rfl, rfl⟩ | ⟨rfl, rfl⟩ |
      ⟨rfl, rfl⟩ <;>
    simp [legalPairs, depthLegal_iff]

/-- The checks of `header_load` as one chain of conditions on the field values, the last by the legal pairs
(42_loaders.md R271, R272). -/
theorem headerCheck_elim {α : Type} (pass : α) (fail : Word → α) (w h : Word) (f : HdrFmt) (il : Byte) :
    (headerCheck w h f il).elim pass fail =
      if w = 0 ∨ h = 0 then fail 2
      else if f.comp ≠ 0 then fail 3
      else if f.filt ≠ 0 then fail 4
      else if il ≠ 0 ∧ il ≠ 1 then fail 5
      else if f.color ≠ 0 ∧ f.color ≠ 2 ∧ f.color ≠ 3 ∧ f.color ≠ 4 ∧ f.color ≠ 6 then fail 6
      else if (f.color.toNat, f.depth.toNat) ∉ legalPairs then fail 7
      else pass := by
  have hil : il ∉ Config.interlaceCodes ↔ il ≠ 0 ∧ il ≠ 1 := by simp [Config.interlaceCodes]
  simp only [headerCheck, ← colorModeOf_eq_none_iff, hil, Config.compressionCode, Config.filterMethodCode]
  cases hmode : colorModeOf f.color with
  | none =>
    simp only [reduceIte]
    split_ifs <;> rfl
  | some mode =>
    simp only [reduceCtorEq, reduceIte, mem_legalPairs_iff hmode, ite_not]
    split_ifs <;> rfl

/-- On a payload of 13 bytes, `header_load` answers what its checks on the parsed fields say (42_loaders.md R271,
R273). -/
theorem finish_headerLoad (s : State) (a : Nat) :
    finish s (headerLoad s a 13) = .next ((headerCheck (be32 s.mem a) (be32 s.mem (a + 4)) (headerFmt s.mem a)
      (memByte s.mem (a + 12))).elim
        (successNext { s with cfg := { ImageConfig.cleared with
          valid := ⟨true, false, false⟩, hdrWidth := be32 s.mem a, hdrHeight := be32 s.mem (a + 4)
          hdrFmt := headerFmt s.mem a, hdrIl := memByte s.mem (a + 12) } })
        (errorNext s 3)) := by
  rw [headerLoad, if_neg (not_not_intro rfl)]
  dsimp only
  cases headerCheck _ _ _ _ <;> rfl

/-- Settles O25: the payload's place and length, then the chain of checks on the fields it holds. -/
theorem ldHdrResult : Obligations.LdHdrResult := by
  refine ⟨by decide, fun s => ?_⟩
  intro a n w h d col comp filt il legal
  by_cases hout : s.params.memSize < a + n
  · rw [if_pos hout]
    exact finish_onPayload_of_outside headerLoad hout
  have hexec : exec .ldHdr s = finish s (headerLoad s a n) := finish_onPayload_of_inMem headerLoad (Nat.not_lt.mp hout)
  rw [if_neg hout, hexec]
  by_cases hn : n = 13
  · rw [if_neg (not_not_intro hn), hn, finish_headerLoad, headerCheck_elim]
    rfl
  · rw [if_pos hn, headerLoad, if_pos hn]
    rfl

/-! ### The tables -/

section
variable {α : Type} (d : α) {xs : List α} {i : Byte}

theorem tableAt_tableOf_of_lt (h : i.toNat < xs.length) : tableAt (tableOf d xs) i = xs[i.toNat] := by
  rw [tableAt_tableOf, List.getD_eq_getElem _ _ h]

theorem tableAt_tableOf_of_le (h : xs.length ≤ i.toNat) : tableAt (tableOf d xs) i = d := by
  rw [tableAt_tableOf, List.getD_eq_default _ _ h]

end

/-! ### `LD.PLTE` -/

section
variable {s : State}

theorem paletteLoad_of_no_header (hv : s.cfg.valid.hdr = false) (a n : Nat) :
    paletteLoad s a n = .raise .outOfOrderChunk 7 := if_pos hv

theorem paletteLoad_of_other_color (hv : s.cfg.valid.hdr = true) (hc : s.cfg.hdrFmt.color ≠ 3) (a n : Nat) :
    paletteLoad s a n = .raise .outOfOrderChunk 4 := by
  rw [paletteLoad, if_neg (by simp [hv])]
  exact if_pos hc

/-- The length checks of `palette_load`, once a palette header is loaded (42_loaders.md R275). -/
theorem paletteLoad_of_palette_header (hv : s.cfg.valid.hdr = true) (hc : s.cfg.hdrFmt.color = 3) (a n : Nat) :
    paletteLoad s a n =
      if n % 3 ≠ 0 then .raise .invalidPalette 1
      else if n > 768 then .raise .invalidPalette 2
      else .ok { s with
        cfg := { s.cfg with
          palette := tableOf ⟨0, 0, 0⟩ (paletteEntries s.mem a (n / 3))
          plteCount := BitVec.ofNat 9 (n / 3)
          valid := { s.cfg.valid with plte := true } } } := by
  rw [paletteLoad, if_neg (by simp [hv])]
  exact if_neg (not_not_intro hc)

end

/-- Settles O26: the loader's answer under each header, and its entries read back from the table. -/
theorem ldPlteResult : Obligations.LdPlteResult := by
  refine ⟨by decide, fun s => ⟨finish_onPayload_of_outside paletteLoad, fun hin => ?_⟩⟩
  have hexec : exec .ldPlte s = finish s (paletteLoad s s.arg0.toNat s.arg1.toNat) :=
    finish_onPayload_of_inMem paletteLoad hin
  rw [hexec]
  refine ⟨fun hv => ?_, fun hv hc => ?_, fun hv hc hrem => ?_, fun hv hc hrem hlong => ?_, fun hv hc hrem hlen => ?_⟩
  · rw [paletteLoad_of_no_header hv]
    rfl
  · rw [paletteLoad_of_other_color hv hc]
    rfl
  all_goals rw [paletteLoad_of_palette_header hv hc]
  · rw [if_pos hrem]
    rfl
  · rw [if_neg (not_not_intro hrem), if_pos hlong]
    rfl
  · rw [if_neg (not_not_intro hrem), if_neg (Nat.not_lt.mpr hlen)]
    have hcount := paletteEntries_length s.mem s.arg0.toNat (s.arg1.toNat / 3)
    refine ⟨_, rfl, rfl, toNat_ofNat_of_lt (by omega), fun i hi => ?_, fun i hi => ?_⟩
    · exact (tableAt_tableOf_of_lt _ (hcount.symm ▸ hi)).trans (paletteEntries_getElem _ _ _ _)
    · exact tableAt_tableOf_of_le _ (hcount.symm ▸ hi)

/-! ### `LD.TRNS` -/

section
variable {s : State}

theorem trnsLoad_of_no_header (hv : s.cfg.valid.hdr = false) (a n : Nat) :
    trnsLoad s a n = .raise .outOfOrderChunk 7 := if_pos hv

/-! With a header loaded, `trns_load` goes by the colour mode (42_loaders.md R277). -/

theorem trnsLoad_of_alpha_mode (hv : s.cfg.valid.hdr = true)
    (hmode : colorModeOf s.cfg.hdrFmt.color = some .grayAlpha ∨ colorModeOf s.cfg.hdrFmt.color = some .rgba)
    (a n : Nat) : trnsLoad s a n = .raise .invalidTransparency 1 := by
  rcases hmode with hmode | hmode <;> simp [trnsLoad, hv, hmode]

theorem trnsLoad_of_gray (hv : s.cfg.valid.hdr = true) (hmode : colorModeOf s.cfg.hdrFmt.color = some .gray)
    (a n : Nat) :
    trnsLoad s a n =
      if n ≠ 2 then .raise .invalidTransparency 2 else .ok (writeTransparency s (be16 s.mem a) 0 0 []) := by
  simp [trnsLoad, hv, hmode]

theorem trnsLoad_of_rgb (hv : s.cfg.valid.hdr = true) (hmode : colorModeOf s.cfg.hdrFmt.color = some .rgb)
    (a n : Nat) :
    trnsLoad s a n =
      if n ≠ 6 then .raise .invalidTransparency 2
      else .ok (writeTransparency s (be16 s.mem a) (be16 s.mem (a + 2)) (be16 s.mem (a + 4)) []) := by
  simp [trnsLoad, hv, hmode]

theorem trnsLoad_of_palette (hv : s.cfg.valid.hdr = true) (hmode : colorModeOf s.cfg.hdrFmt.color = some .palette)
    (a n : Nat) :
    trnsLoad s a n =
      if n < 1 ∨ n > 256 then .raise .invalidTransparency 2
      else if s.cfg.valid.plte = true ∧ n > s.cfg.plteCount.toNat then .raise .invalidTransparency 3
      else .ok (writeTransparency s 0 0 0 (memRead s.mem a n)) := by
  simp [trnsLoad, hv, hmode]

end

/-- The alpha table read back: as many payload bytes as were read, then zeros (42_loaders.md R277). -/
theorem tableAt_tableOf_memRead (m : Memory) (a n : Nat) :
    (∀ i : Byte, i.toNat < n → tableAt (tableOf 0 (memRead m a n)) i = memByte m (a + i.toNat)) ∧
    (∀ i : Byte, n ≤ i.toNat → tableAt (tableOf 0 (memRead m a n)) i = 0) := by
  have hlen := memRead_length m a n
  refine ⟨fun i hi => ?_, fun i hi => tableAt_tableOf_of_le _ (hlen.symm ▸ hi)⟩
  exact (tableAt_tableOf_of_lt _ (hlen.symm ▸ hi)).trans (memRead_getElem _ _ _ _)

/-- Settles O27: the loader's answer under each colour mode. Every load writes three keys and the alpha entries that
`cnt` payload bytes give, none in the key modes. -/
theorem ldTrnsResult : Obligations.LdTrnsResult := by
  refine ⟨by decide, fun s => ?_⟩
  intro a n col loads
  refine ⟨finish_onPayload_of_outside trnsLoad, fun hin => ?_⟩
  have hexec : exec .ldTrns s = finish s (trnsLoad s a n) := finish_onPayload_of_inMem trnsLoad hin
  have hraise {info : Word} {e : ErrorKind} (hr : trnsLoad s a n = .raise e info) :
      exec .ldTrns s = .next (errorNext s (errorCode e) info) := by
    rw [hexec, hr]
    rfl
  have hloads {k0 k1 k2 : BitVec 16} {cnt : Nat} (hcnt : cnt ≤ 256)
      (hr : trnsLoad s a n = .ok (writeTransparency s k0 k1 k2 (memRead s.mem a cnt))) : loads k0 k1 k2 cnt := by
    have hcount : (BitVec.ofNat 9 (memRead s.mem a cnt).length).toNat = cnt := by
      rw [memRead_length, toNat_ofNat_of_lt (by omega)]
    exact ⟨_, by rw [hexec, hr, finish_ok], rfl, hcount, tableAt_tableOf_memRead s.mem a cnt⟩
  refine ⟨fun hv => hraise (trnsLoad_of_no_header hv a n), fun hv => ?_⟩
  have halpha (hc : col = 4 ∨ col = 6) :=
    trnsLoad_of_alpha_mode hv (hc.imp (congrArg colorModeOf) (congrArg colorModeOf)) a n
  have hgray (hc : col = 0) := trnsLoad_of_gray hv (congrArg colorModeOf hc) a n
  have hrgb (hc : col = 2) := trnsLoad_of_rgb hv (congrArg colorModeOf hc) a n
  have hpalette (hc : col = 3) := trnsLoad_of_palette hv (congrArg colorModeOf hc) a n
  refine ⟨fun hc => hraise (halpha hc), fun hc hn => hraise ((hgray hc).trans (if_pos hn)),
    fun hc hn => hloads (Nat.zero_le _) ((hgray hc).trans (if_neg (not_not_intro hn))),
    fun hc hn => hraise ((hrgb hc).trans (if_pos hn)),
    fun hc hn => hloads (Nat.zero_le _) ((hrgb hc).trans (if_neg (not_not_intro hn))),
    fun hc hn => hraise ((hpalette hc).trans (if_pos hn)), fun hc hlo hhi hplte hn => ?_, fun hc hlo hhi hroom => ?_⟩
  all_goals
    have hentries := (hpalette hc).trans (if_neg (show ¬(n < 1 ∨ n > 256) by omega))
  · exact hraise (hentries.trans (if_pos ⟨hplte, hn⟩))
  · refine hloads hhi (hentries.trans (if_neg ?_))
    rintro ⟨hplte, hn⟩
    rcases hroom with hno | hle
    · exact absurd hplte (by simp [hno])
    · exact absurd hn (Nat.not_lt.mpr hle)

/-! ### `ZB.APPEND` -/

/-- Settles O28: the buffer's checks, and the payload copied within a canonical memory. -/
theorem zbAppendResult : Obligations.ZbAppendResult := by
  refine ⟨by decide, fun s => ⟨finish_onPayload_of_outside zbAppend, fun hin hbuf => ?_, fun hin hbuf hfull => ?_,
    fun hin hbuf hroom hwf => ?_⟩⟩
  · exact (finish_onPayload_of_inMem zbAppend hin).trans (congrArg (finish s) (zbAppend_of_buffer_outside hbuf))
  · exact (finish_onPayload_of_inMem zbAppend hin).trans (congrArg (finish s) (zbAppend_of_full hbuf hfull))
  · have hcap := s.zbCap.isLt
    exact ⟨_, exec_zbAppend_of_fits hin hbuf hroom, rfl, toNat_ofNat_of_lt (by omega),
      fun k => memByte_memWrite_memRead hwf _ _, fun b => memByte_memWrite_memRead_outside s.mem⟩

end Sys2Proof.Machine
end

section
/-! Settles O32, O33 and O34 (43_defilter.md R311, R312, R315, R323, R324): the Paeth choice by the integer distances, and
the two commands on single bytes, `FLT.BYTE` and `SAMPLE`. -/

namespace Sys2Proof

/-- 30_encoding.md R140: a word written as an opcode with an immediate above it has these two fields and no other bit. -/
theorem opcode_or_immediate_fields (op imm : Byte) :
    wordRsv (op.zeroExtend 32 ||| (imm.zeroExtend 32 <<< 8)) = 0 ∧
    wordImm (op.zeroExtend 32 ||| (imm.zeroExtend 32 <<< 8)) = imm ∧
    wordOp (op.zeroExtend 32 ||| (imm.zeroExtend 32 <<< 8)) = op := by
  refine ⟨?_, ?_, ?_⟩
  all_goals
    ext k hk
    simp only [wordRsv, wordImm, wordOp, BitVec.getElem_extractLsb', BitVec.getLsbD_or, BitVec.getLsbD_shiftLeft,
      BitVec.getLsbD_setWidth]
  · have hop : op.getLsbD (16 + k) = false := BitVec.getLsbD_of_ge op _ (by omega)
    have himm : imm.getLsbD (16 + k - 8) = false := BitVec.getLsbD_of_ge imm _ (by omega)
    simp [hop, himm]
  · simp [BitVec.getLsbD_eq_getElem hk, show 8 + k < 32 by omega, show k < 32 by omega]
  · simp [show k < 32 by omega, show k < 8 from hk]

end Sys2Proof

namespace Sys2Proof.Machine

/-! ### The Paeth choice -/

/-- How far `v` is from the estimate `a + b - c`, over the integers (43_defilter.md R312). -/
def paethDistance (a b c v : Byte) : Int := |(a.toNat : Int) + b.toNat - c.toNat - v.toNat|

section
variable (a b c : Byte)

theorem paeth_eq_ite_paethDistance :
    paeth a b c =
      if paethDistance a b c a ≤ paethDistance a b c b ∧ paethDistance a b c a ≤ paethDistance a b c c then a
      else if paethDistance a b c b ≤ paethDistance a b c c then b else c := by
  simp only [paeth, paethDistance, Int.abs_eq_natAbs, Nat.cast_le]

/-- The three branches of the choice, each with the order of the distances that leads to it. -/
theorem paeth_cases :
    (paeth a b c = a ∧ paethDistance a b c a ≤ paethDistance a b c b ∧ paethDistance a b c a ≤ paethDistance a b c c) ∨
    (paeth a b c = b ∧ paethDistance a b c b < paethDistance a b c a ∧ paethDistance a b c b ≤ paethDistance a b c c) ∨
    (paeth a b c = c ∧ paethDistance a b c c < paethDistance a b c a ∧
      paethDistance a b c c < paethDistance a b c b) := by
  rw [paeth_eq_ite_paethDistance]
  split
  · next h => exact .inl ⟨rfl, h⟩
  · split
    · exact .inr (.inl ⟨rfl, by omega, by omega⟩)
    · exact .inr (.inr ⟨rfl, by omega, by omega⟩)

theorem paethDistance_left : paethDistance a b c a = |(b.toNat : Int) - c.toNat| := by
  rw [paethDistance]
  congr 1
  ring

theorem paethDistance_above : paethDistance a b c b = |(a.toNat : Int) - c.toNat| := by
  rw [paethDistance]
  congr 1
  ring

theorem paethDistance_upperLeft : paethDistance a b c c = |(a.toNat : Int) + b.toNat - 2 * c.toNat| := by
  rw [paethDistance]
  congr 1
  ring

variable {a b c}

/-- Left and above at the same distance are equal or lie on either side of the upper left, which is then their mean. -/
theorem paethDistance_upperLeft_eq_zero_of_tie (htie : paethDistance a b c a = paethDistance a b c b) (hne : a ≠ b) :
    paethDistance a b c c = 0 := by
  rw [paethDistance_left, paethDistance_above, abs_eq_abs] at htie
  rw [paethDistance_upperLeft, abs_eq_zero]
  rcases htie with hsame | hopposite
  · exact absurd (BitVec.eq_of_toNat_eq (by omega)) hne
  · omega

end

/-- Settles O33: each branch of the choice has the distances that lead to it, which exclude the other two. -/
theorem paethMinimisesInTieOrder : Obligations.PaethMinimisesInTieOrder := by
  intro a b c p dist
  have htie := paethDistance_upperLeft_eq_zero_of_tie (a := a) (b := b) (c := c)
  rcases paeth_cases a b c with ⟨hp, hab, hac⟩ | ⟨hp, hba, hbc⟩ | ⟨hp, hca, hcb⟩ <;> rw [hp]
  · exact ⟨.inl rfl, le_rfl, hab, hac, fun _ _ => rfl, fun h _ => absurd hab h.not_ge, fun h _ => absurd hac h.not_ge,
      htie⟩
  · exact ⟨.inr (.inl rfl), hba.le, le_rfl, hbc, fun h _ => absurd hba h.not_gt, fun _ _ => rfl,
      fun _ h => absurd hbc h.not_ge, htie⟩
  · exact ⟨.inr (.inr rfl), hca.le, hcb.le, le_rfl, fun _ h => absurd hca h.not_gt, fun _ h => absurd hcb h.not_gt,
      fun _ _ => rfl, htie⟩

/-! ### `FLT.BYTE` -/

theorem exec_fltByte_of_type {t : Byte} {ft : FilterType} (ht : filterTypeOf t = some ft) (s : State) :
    exec (.fltByte t) s = .next (successNext { s with
      result := (recon ft (lowByte s.arg0) (lowByte s.arg1) (lowByte s.arg2) (lowByte s.arg3)).zeroExtend 32 }) := by
  rcases fltByteBody_cases t s with ⟨hbad, -⟩ | ⟨ft', hft, hr⟩
  · cases ht.symm.trans ((filterTypeOf_eq_none_iff t).mpr hbad)
  · obtain rfl := Option.some.inj (ht.symm.trans hft)
    exact congrArg (finish s) hr

/-- Settles O32: the word's fields, and each type's reconstruction. -/
theorem fltByteResult : Obligations.FltByteResult := by
  refine ⟨fun t => (decode_eq_ok_iff _ _).mpr ⟨rfl, opcode_or_immediate_fields 0x41 t⟩, fun s => ?_⟩
  intro f a b c ia ib ic paethChoice result
  have hresult {t : Byte} {ft : FilterType} {r : Byte} (ht : filterTypeOf t = some ft) (hr : recon ft f a b c = r) :
      exec (.fltByte t) s = result r := hr ▸ exec_fltByte_of_type ht s
  have hpaeth : paeth a b c = paethChoice := by
    rw [paeth_eq_ite_paethDistance, paethDistance_left, paethDistance_above, paethDistance_upperLeft]
  exact ⟨hresult rfl (BitVec.add_zero f), hresult rfl rfl, hresult rfl rfl, hresult rfl (ofNat_toNat_add f _).symm,
    hresult rfl (congrArg (f + ·) hpaeth), fun t => exec_fltByte_of_invalid_type s⟩

/-! ### `SAMPLE` -/

theorem exec_sample_of_inMem {s : State} {d : Byte} (hd : d = 1 ∨ d = 2 ∨ d = 4 ∨ d = 8)
    (h : s.arg0.toNat + s.arg1.toNat * d.toNat / 8 + 1 ≤ s.params.memSize) :
    exec (.sample d) s = .next (successNext { s with
      result := (extractSample s.mem s.arg0.toNat s.arg1.toNat d.toNat).zeroExtend 32 }) := by
  rcases sampleBody_cases d s with ⟨hbad, -⟩ | ⟨hout, -⟩ | ⟨-, -, hr⟩
  · cases hbad.symm.trans ((sampleDepthLegal_iff d).mpr hd)
  · omega
  · exact congrArg (finish s) hr

theorem exec_sample_of_outside {s : State} {d : Byte} (hd : d = 1 ∨ d = 2 ∨ d = 4 ∨ d = 8)
    (h : s.params.memSize < s.arg0.toNat + s.arg1.toNat * d.toNat / 8 + 1) :
    exec (.sample d) s = .next (errorNext s 13 1) := by
  rcases sampleBody_cases d s with ⟨hbad, -⟩ | ⟨-, hr⟩ | ⟨-, hin, -⟩
  · cases hbad.symm.trans ((sampleDepthLegal_iff d).mpr hd)
  · exact congrArg (finish s) hr
  · omega

/-- Settles O34: the word's fields, and the value and the bound of `extract_sample`. -/
theorem sampleResult : Obligations.SampleResult := by
  refine ⟨fun d hd => (decode_eq_ok_iff _ _).mpr ⟨(sampleDepthLegal_iff d).mpr hd, opcode_or_immediate_fields 0x42 d⟩,
    fun s d hd => ⟨fun hin => ?_, exec_sample_of_outside hd⟩⟩
  have hdepth : d.toNat = 1 ∨ d.toNat = 2 ∨ d.toNat = 4 ∨ d.toNat = 8 := by
    rcases hd with rfl | rfl | rfl | rfl <;> decide
  have hbyte (b : Byte) : (b.zeroExtend 32).toNat = b.toNat := BitVec.toNat_setWidth_of_le (by decide)
  refine ⟨_, exec_sample_of_inMem hd hin, rfl, ?_, ?_⟩
  · exact (hbyte _).trans (extractSample_toNat _ _ _ _ hdepth)
  · exact (hbyte _).trans_lt (extractSample_lt _ _ _ _ hdepth)

end Sys2Proof.Machine
end

section
/-! Settles O29, O30, O31, O40 and O42 (43_defilter.md R310 to R314, R320 to R322, R325, 44_convert.md R360): `DEFILT`, its
checks in order and the recurrence of its output, which has one solution; and what `DEFILT` and `CONV` write and read. -/

namespace Sys2Proof.Machine

/-! ### The checks of `DEFILT` in order -/

section
variable {s : State}

theorem defiltBody_of_open (hopen : ¬(s.seq.state = .idle ∨ s.seq.state = .done)) :
    defiltBody s = .raise .badCommand 5 :=
  if_pos (Bool.eq_false_iff.mpr (mt (streamClosed_iff s).mp hopen))

variable (hclosed : s.seq.state = .idle ∨ s.seq.state = .done)
include hclosed

theorem defiltBody_of_no_header (hv : s.cfg.valid.hdr = false) : defiltBody s = .raise .invalidHeader 8 := by
  simp [defiltBody, (streamClosed_iff s).mpr hclosed, hv]

variable (hv : s.cfg.valid.hdr = true)
include hv

theorem defiltBody_of_source_outside (hsrc : s.params.memSize < s.arg0.toNat + s.arg1.toNat) :
    defiltBody s = .raise .badAddress 1 := by
  simp [defiltBody, srcAddr, srcLen, (streamClosed_iff s).mpr hclosed, hv, (inMem_false_iff _ _ _).mpr hsrc]

variable (hsrc : s.arg0.toNat + s.arg1.toNat ≤ s.params.memSize)
include hsrc

theorem defiltBody_of_destination_outside (hdst : s.params.memSize < s.arg2.toNat + s.arg3.toNat) :
    defiltBody s = .raise .badAddress 3 := by
  simp [defiltBody, srcAddr, srcLen, dstAddr, dstCap, (streamClosed_iff s).mpr hclosed, hv,
    (inMem_iff _ _ _).mpr hsrc, (inMem_false_iff _ _ _).mpr hdst]

theorem defiltBody_of_shape (hdst : s.arg2.toNat + s.arg3.toNat ≤ s.params.memSize) {sh : ImageShape}
    (hshape : imageShape s.cfg = some sh) : defiltBody s = defiltImage s sh := by
  simp [defiltBody, srcAddr, srcLen, dstAddr, dstCap, (streamClosed_iff s).mpr hclosed, hv,
    (inMem_iff _ _ _).mpr hsrc, (inMem_iff _ _ _).mpr hdst, hshape]

end

/-- Scanlines with a bad tag are answered with the lowest row that has one (43_defilter.md R320). -/
theorem readScanlines_of_lowest_bad_tag {m : Memory} {src bpl k y : Nat} (hy : y < k)
    (hbad : 4 < (memByte m (src + y * (bpl + 1))).toNat)
    (hlow : ∀ z < y, (memByte m (src + z * (bpl + 1))).toNat ≤ 4) : readScanlines m src bpl 0 k = .error y := by
  rcases readScanlines_cases m src bpl 0 k with ⟨rows, -, hlen, hrows⟩ | ⟨i, -, herr, hibad, hilow⟩
  · obtain ⟨htag, -⟩ := hrows y (hlen ▸ hy)
    rw [Nat.zero_add, (filterTypeOf_eq_none_iff _).mpr hbad] at htag
    cases htag
  · simp only [Nat.zero_add] at herr hibad hilow
    rcases Nat.lt_trichotomy i y with hlt | rfl | hlt
    · exact absurd (hlow i hlt) (Nat.not_le.mpr hibad)
    · exact herr
    · exact absurd (hilow y hlt) (Nat.not_le.mpr hbad)

section
variable {s : State} {sh : ImageShape}

theorem defiltImage_of_short (h : s.arg1.toNat < sh.height * (bytesPerLine sh + 1)) :
    defiltImage s sh = .raise .truncatedImageData 1 := if_pos h

variable (henough : sh.height * (bytesPerLine sh + 1) ≤ s.arg1.toNat)
include henough

theorem defiltImage_of_small (h : s.arg3.toNat < sh.height * bytesPerLine sh) :
    defiltImage s sh = .raise .allocationFailed 2 :=
  (if_neg (Nat.not_lt.mpr henough)).trans (if_pos h)

theorem defiltImage_of_bad_tag (hroom : sh.height * bytesPerLine sh ≤ s.arg3.toNat) {y : Nat}
    (h : readScanlines s.mem s.arg0.toNat (bytesPerLine sh) 0 sh.height = .error y) :
    defiltImage s sh = .raise .invalidFilterType (BitVec.ofNat 32 y) := by
  simp [defiltImage, srcLen, dstCap, srcAddr, h, Nat.not_lt.mpr henough, Nat.not_lt.mpr hroom]

end

/-- Settles O29: each check that fails, once those before it pass. -/
theorem defiltErrors : Obligations.DefiltErrors := by
  intro s closed srcOk dstOk
  have hraise {e : ErrorKind} {info : Word} (hr : defiltBody s = .raise e info) :
      exec .defilt s = .next (errorNext s (errorCode e) info) := congrArg (finish s) hr
  refine ⟨fun hopen => hraise (defiltBody_of_open hopen), fun hc hv => hraise (defiltBody_of_no_header hc hv),
    fun hc hv hsrc => hraise (defiltBody_of_source_outside hc hv (Nat.not_le.mp hsrc)),
    fun hc hv hsrc hdst => hraise (defiltBody_of_destination_outside hc hv hsrc (Nat.not_le.mp hdst)),
    fun hc hv hsrc hdst sh hshape => ?_⟩
  have hbody := defiltBody_of_shape hc hv hsrc hdst hshape
  refine ⟨fun hshort => hraise (hbody.trans (defiltImage_of_short hshort)),
    fun henough hsmall => hraise (hbody.trans (defiltImage_of_small henough hsmall)),
    fun henough hroom y hy hbad hlow => hraise (hbody.trans (defiltImage_of_bad_tag henough hroom ?_))⟩
  exact readScanlines_of_lowest_bad_tag hy hbad hlow

/-! ### The recurrence of an image -/

theorem bytesPerPixel_pos (sh : ImageShape) : 1 ≤ bytesPerPixel sh := by
  rcases Nat.lt_or_ge sh.depth 8 with hsub | hbytes
  · rw [bytesPerPixel_of_depth_lt hsub]
  · have hchannels : 1 ≤ channels sh.mode := by cases sh.mode <;> decide
    rw [bytesPerPixel_of_le_depth hbytes]
    exact Nat.mul_pos hchannels (by omega)

/-- A prediction reads bytes of the row to the left, and bytes of the row above up to its own column (43_defilter.md
R314). -/
theorem predictedAt_congr (t : FilterType) {bpp : Nat} (hb : 1 ≤ bpp) {px px' : Nat → Nat → Byte} {y x : Nat}
    (hleft : ∀ u < x, px y u = px' y u) (habove : ∀ v < y, ∀ u ≤ x, px v u = px' v u) :
    predictedAt t bpp px y x = predictedAt t bpp px' y x := by
  have hl : leftOf bpp px y x = leftOf bpp px' y x := by
    unfold leftOf
    split
    · exact hleft _ (by omega)
    · rfl
  have ha : aboveOf px y x = aboveOf px' y x := by
    unfold aboveOf
    split
    · exact habove _ (by omega) _ le_rfl
    · rfl
  have hu : upperLeftOf bpp px y x = upperLeftOf bpp px' y x := by
    unfold upperLeftOf
    split
    · exact habove _ (by omega) _ (Nat.sub_le _ _)
    · rfl
  rw [predictedAt, predictedAt, hl, ha, hu]

/-- The bytes `px` of `h` rows of `w` bytes are the filtered bytes `f` plus the prediction of each row's type from the
bytes `px` themselves (43_defilter.md R313, R314). -/
def Reconstructed (bpp h w : Nat) (tag : Nat → FilterType) (f px : Nat → Nat → Byte) : Prop :=
  ∀ y < h, ∀ x < w, px y x = f y x + predictedAt (tag y) bpp px y x

/-- The recurrence has one solution, row by row and byte by byte: a prediction reads only bytes already determined. -/
theorem Reconstructed.unique {bpp h w : Nat} (hb : 1 ≤ bpp) {tag : Nat → FilterType} {f px px' : Nat → Nat → Byte}
    (hpx : Reconstructed bpp h w tag f px) (hpx' : Reconstructed bpp h w tag f px') :
    ∀ y < h, ∀ x < w, px y x = px' y x := by
  intro y
  induction y using Nat.strong_induction_on with
  | _ y ihy =>
    intro hy x
    induction x using Nat.strong_induction_on with
    | _ x ihx =>
      intro hx
      rw [hpx y hy x hx, hpx' y hy x hx, predictedAt_congr (tag y) hb]
      · exact fun u hu => ihx u hu (by omega)
      · exact fun v hv u hu => ihy v hv (by omega) u (by omega)

/-- An image is the reconstruction of its own filtered form (43_defilter.md R325). -/
theorem reconstructed_of_filtered {bpp h w : Nat} {tag : Nat → FilterType} {f orig : Nat → Nat → Byte}
    (hf : ∀ y < h, ∀ x < w, f y x = orig y x - predictedAt (tag y) bpp orig y x) :
    Reconstructed bpp h w tag f orig := by
  intro y hy x hx
  rw [hf y hy x hx, BitVec.sub_add_cancel]

/-! ### The reconstructed rows as an image -/

/-- Byte `x` of row `y` of the reconstructed rows. -/
def reconByte (bpp bpl : Nat) (rows : List (FilterType × List Byte)) (y x : Nat) : Byte :=
  (reconRows bpp [] rows).getD (y * bpl + x) 0

/-- The recurrence of the reconstructed rows, with the neighbours of 43_defilter.md R314. -/
theorem reconByte_eq {bpp bpl : Nat} (hb : 1 ≤ bpp) {rows : List (FilterType × List Byte)}
    (hl : ∀ r ∈ rows, r.2.length = bpl) {y x : Nat} (hy : y < rows.length) (hx : x < bpl) :
    reconByte bpp bpl rows y x =
      rows[y].2.getD x 0 + predictedAt rows[y].1 bpp (reconByte bpp bpl rows) y x := by
  refine (reconRows_getD hb [] rows hl hy hx).trans ?_
  cases y <;> simp [recon, predictedAt, leftOf, aboveOf, upperLeftOf, reconByte]

/-- Row `y` of scanlines that were read: the type its tag names, and its filtered bytes (43_defilter.md R310). -/
theorem readScanlines_ok_row {m : Memory} {src bpl k : Nat} {rows : List (FilterType × List Byte)}
    (h : readScanlines m src bpl 0 k = .ok rows) {y : Nat} (hy : y < rows.length) :
    filterTypeOf (memByte m (src + y * (bpl + 1))) = some rows[y].1 ∧
      rows[y].2 = memRead m (src + y * (bpl + 1) + 1) bpl := by
  rcases readScanlines_cases m src bpl 0 k with ⟨rows', hok, -, hrows⟩ | ⟨i, -, herr, -⟩
  · obtain rfl := Except.ok.inj (hok.symm.trans h)
    simpa only [Nat.zero_add] using hrows y hy
  · cases herr.symm.trans h

theorem reconRows_length_of_read (bpp : Nat) {m : Memory} {src bpl y k : Nat} {rows : List (FilterType × List Byte)}
    (h : readScanlines m src bpl y k = .ok rows) : (reconRows bpp [] rows).length = k * bpl := by
  obtain ⟨hcount, hbytes⟩ := readScanlines_ok_lengths h
  rw [reconRows_length bpp bpl [] rows hbytes, hcount]

/-- The bytes written over a canonical memory, read back through `getD`. -/
theorem memByte_memWrite_getD {m : Memory} (h : Memory.wf m) (a : Nat) (bs : List Byte) {k : Nat}
    (hk : k < bs.length) : memByte (memWrite m a bs) (a + k) = bs.getD k 0 := by
  rw [memByte_memWrite_inside h a bs hk, List.getD_eq_getElem _ _ hk]

theorem row_byte_lt {h w y x : Nat} (hy : y < h) (hx : x < w) : y * w + x < h * w :=
  calc y * w + x < y * w + w := Nat.add_lt_add_left hx _
    _ = (y + 1) * w := (Nat.succ_mul y w).symm
    _ ≤ h * w := Nat.mul_le_mul_right w hy

/-- Settles O30: the output is the reconstructed rows, whose recurrence reads no byte outside the image. -/
theorem defiltReconstructs : Obligations.DefiltReconstructs := by
  intro s sh hwf hready bpl src dst
  obtain ⟨rows, hrows⟩ := readScanlines_of_tags_le hready.tags
  obtain ⟨hcount, hbytes⟩ := readScanlines_ok_lengths hrows
  have hlen := reconRows_length_of_read (bytesPerPixel sh) hrows
  refine ⟨_, exec_defilt_of_ready hready hrows, rfl, fun y hy x hx => ?_, fun a ha => ?_⟩
  · obtain ⟨htag, hrow⟩ := readScanlines_ok_row hrows (hcount.symm ▸ hy)
    have hread : ∀ v < sh.height, ∀ u < bpl,
        memByte (memWrite s.mem dst (reconRows (bytesPerPixel sh) [] rows)) (dst + v * bpl + u) =
          reconByte (bytesPerPixel sh) bpl rows v u := fun v hv u hu => by
      rw [Nat.add_assoc, memByte_memWrite_getD hwf _ _ (hlen.symm ▸ row_byte_lt hv hu)]
      rfl
    have hfiltered : rows[y].2.getD x 0 = memByte s.mem (src + y * (bpl + 1) + 1 + x) := by
      rw [hrow, List.getD_eq_getElem _ _ (by simpa using hx), memRead_getElem]
    refine ⟨_, htag, ?_⟩
    calc
      _ = reconByte (bytesPerPixel sh) bpl rows y x := hread y hy x hx
      _ = _ := reconByte_eq (bytesPerPixel_pos sh) hbytes (hcount.symm ▸ hy) hx
      _ = _ := by
        rw [hfiltered]
        congr 1
        exact (predictedAt_congr _ (bytesPerPixel_pos sh) (fun u hu => hread y hy u (by omega))
          (fun v hv u hu => hread v (by omega) u (by omega))).symm
  · exact memByte_memWrite_outside _ _ (hlen.symm ▸ ha)

/-- Settles O31: the output and the image are both the reconstruction of the filtered bytes, and there is only one. -/
theorem filterRoundTrip : Obligations.FilterRoundTrip := by
  intro s sh orig tag hwf hready hsource
  obtain ⟨t, hexec, -, houtput, -⟩ := defiltReconstructs s sh hwf hready
  refine ⟨t, hexec, Reconstructed.unique (tag := tag) (px' := orig)
    (f := fun y x => memByte s.mem (s.arg0.toNat + y * (bytesPerLine sh + 1) + 1 + x)) (bytesPerPixel_pos sh) ?_ ?_⟩
  · intro y hy x hx
    obtain ⟨ft, hft, hbyte⟩ := houtput y hy x hx
    obtain ⟨htag, -⟩ := hsource y hy
    obtain rfl := Option.some.inj (hft.symm.trans htag)
    exact hbyte
  · exact reconstructed_of_filtered fun y hy => (hsource y hy).2

/-! ### What `DEFILT` and `CONV` write -/

theorem convRows_length_of_image (cfg : ImageConfig) (m : Memory) (sh : ImageShape) (src : Nat) :
    (convRows cfg m sh src 0 sh.height).length = sh.width * sh.height * 4 := by
  rw [convRows_length]
  ring

section
variable {s u : State}

/-- All that a body of `DEFILT` that ends well writes: the image at the destination. -/
theorem defiltBody_ok (h : defiltBody s = .ok u) :
    ∃ sh bs, imageShape s.cfg = some sh ∧ bs.length = sh.height * bytesPerLine sh ∧
      u = { s with mem := memWrite s.mem s.arg2.toNat bs } := by
  rcases defiltBody_cases s with ⟨hr, -⟩ | ⟨hr, -⟩ | ⟨hr, -⟩ | ⟨hr, -⟩ | ⟨hr, -⟩ | ⟨sh, hshape, -, -, hr⟩
  case inr.inr.inr.inr.inr =>
    rw [hr] at h
    rcases defiltImage_cases s sh with ⟨hr, -⟩ | ⟨hr, -⟩ | ⟨y, -, hr⟩ | ⟨rows, hrows, -, -, hr⟩
    case inr.inr.inr =>
      exact ⟨sh, _, hshape, reconRows_length_of_read _ hrows, (Res.ok.inj (hr.symm.trans h)).symm⟩
    all_goals cases hr.symm.trans h
  all_goals cases hr.symm.trans h

/-- All that a body of `CONV` that ends well writes: the pixels at the destination. -/
theorem convBody_ok (h : convBody s = .ok u) :
    ∃ sh bs, imageShape s.cfg = some sh ∧ bs.length = sh.width * sh.height * 4 ∧
      u = { s with mem := memWrite s.mem s.arg2.toNat bs } := by
  rcases convBody_cases s with ⟨hr, -⟩ | ⟨hr, -⟩ | ⟨hr, -⟩ | ⟨hr, -⟩ | ⟨hr, -⟩ | ⟨sh, hshape, -, -, hr⟩
  case inr.inr.inr.inr.inr =>
    rw [hr] at h
    rcases convImage_cases s sh with ⟨hr, -⟩ | ⟨hr, -⟩ | ⟨hr, -⟩ | ⟨-, -, -, hr⟩
    case inr.inr.inr =>
      exact ⟨sh, _, hshape, convRows_length_of_image s.cfg s.mem sh _, (Res.ok.inj (hr.symm.trans h)).symm⟩
    all_goals cases hr.symm.trans h
  all_goals cases hr.symm.trans h

end

/-- A command whose body writes nothing but `n` bytes at `a` leaves every other byte alone, in every outcome. -/
theorem memByte_of_finish_outside {s t : State} {r : Res State} {a n : Nat} (h : finish s r = .next t)
    (hbody : ∀ u, r = .ok u → ∃ bs : List Byte, bs.length = n ∧ u.mem = memWrite s.mem a bs) {b : Nat}
    (hb : ¬(a ≤ b ∧ b < a + n)) : memByte t.mem b = memByte s.mem b := by
  rcases finish_next h with ⟨u, hu, rfl⟩ | ⟨e, info, -, rfl⟩
  · obtain ⟨bs, rfl, hmem⟩ := hbody u hu
    rw [complete_mem, hmem, memByte_memWrite_outside _ _ hb]
  · rfl

/-- Settles O40: each command's body writes its output only, and a failure writes no byte. -/
theorem destinationOnlyIsWritten : Obligations.DestinationOnlyIsWritten := by
  intro s t
  refine ⟨fun h sh hshape a ha => memByte_of_finish_outside h (fun u hu => ?_) ha,
    fun h sh hshape a ha => memByte_of_finish_outside h (fun u hu => ?_) ha⟩
  · obtain ⟨sh', bs, hshape', hlen, rfl⟩ := defiltBody_ok hu
    obtain rfl := Option.some.inj (hshape.symm.trans hshape')
    exact ⟨bs, hlen, rfl⟩
  · obtain ⟨sh', bs, hshape', hlen, rfl⟩ := convBody_ok hu
    obtain rfl := Option.some.inj (hshape.symm.trans hshape')
    exact ⟨bs, hlen, rfl⟩

/-! ### What `DEFILT` and `CONV` read -/

/-- Two memories with the same `n` bytes from address `a`. -/
def AgreeOn (m m' : Memory) (a n : Nat) : Prop := ∀ k < n, memByte m (a + k) = memByte m' (a + k)

section
variable {m m' : Memory} {a n : Nat} (h : AgreeOn m m' a n)
include h

theorem AgreeOn.memByte_eq {b : Nat} (hlo : a ≤ b) (hhi : b < a + n) : memByte m b = memByte m' b := by
  obtain ⟨k, rfl⟩ := Nat.exists_eq_add_of_le hlo
  exact h k (by omega)

theorem AgreeOn.mono {b k : Nat} (hlo : a ≤ b) (hhi : b + k ≤ a + n) : AgreeOn m m' b k :=
  fun j hj => h.memByte_eq (by omega) (by omega)

end

/-- Scanlines read in two memories that agree on their tags and filtered bytes are the same (43_defilter.md R310). -/
theorem readScanlines_congr {m m' : Memory} {src bpl y k : Nat}
    (h : AgreeOn m m' (src + y * (bpl + 1)) (k * (bpl + 1))) :
    readScanlines m src bpl y k = readScanlines m' src bpl y k := by
  induction k generalizing y with
  | zero => rfl
  | succ k ih =>
    rw [Nat.succ_mul] at h
    have htag := h.memByte_eq le_rfl (by omega)
    have hrow := memRead_congr (h.mono (b := src + y * (bpl + 1) + 1) (k := bpl) (by omega) (by omega))
    have hnext : src + (y + 1) * (bpl + 1) = src + y * (bpl + 1) + (bpl + 1) := by rw [Nat.succ_mul, Nat.add_assoc]
    have hrest := ih (y := y + 1) (h.mono (by omega) (by omega))
    rw [readScanlines, readScanlines, htag, hrow, hrest]

/-- The checks of `DEFILT` read no byte but the tags (43_defilter.md R320). -/
theorem DefiltReady.withMemory {s : State} {sh : ImageShape} (hs : DefiltReady s sh) {m : Memory}
    (h : AgreeOn m s.mem s.arg0.toNat (sh.height * (bytesPerLine sh + 1))) : DefiltReady { s with mem := m } sh :=
  { hs with
    tags := fun y hy =>
      (congrArg BitVec.toNat (h _ (row_byte_lt hy (Nat.succ_pos (bytesPerLine sh))))).trans_le (hs.tags y hy) }

/-- A pixel reads bytes of its own row only (44_convert.md R351). -/
theorem pixelAt_congr (cfg : ImageConfig) {m m' : Memory} {sh : ImageShape} {row x : Nat}
    (hlegal : depthLegal sh.mode sh.depth = true) (hx : x < sh.width) (h : AgreeOn m m' row (bytesPerLine sh)) :
    pixelAt cfg m sh row x = pixelAt cfg m' sh row x := by
  have hbits := (bytesPerLine_le_iff sh _).mp le_rfl
  have hbyte {b : Nat} (hlo : row ≤ b) (hhi : b < row + bytesPerLine sh) := h.memByte_eq hlo hhi
  obtain ⟨w, ht, mode, d⟩ := sh
  rw [depthLegal_iff] at hlegal
  -- For each legal pair, `hbits` puts every byte the pixel reads below the end of its row.
  cases mode with
  | gray =>
    simp only [channels] at hbits hx
    rcases hlegal with rfl | rfl | rfl | rfl | rfl
    all_goals simp (disch := omega) [pixelAt, pixelGray, be16, extractSample, hbyte]
  | rgb =>
    simp only [channels] at hbits hx
    rcases hlegal with rfl | rfl
    all_goals simp (disch := omega) [pixelAt, pixelRgb, be16, hbyte]
  | palette =>
    simp only [channels] at hbits hx
    rcases hlegal with rfl | rfl | rfl | rfl
    all_goals simp (disch := omega) [pixelAt, pixelPalette, extractSample, hbyte]
  | grayAlpha =>
    simp only [channels] at hbits hx
    rcases hlegal with rfl | rfl
    all_goals simp (disch := omega) [pixelAt, pixelGrayAlpha, hbyte]
  | rgba =>
    simp only [channels] at hbits hx
    rcases hlegal with rfl | rfl
    all_goals simp (disch := omega) [pixelAt, pixelRgba, hbyte]

theorem convPixels_congr (cfg : ImageConfig) {m m' : Memory} {sh : ImageShape} {row x k : Nat}
    (hlegal : depthLegal sh.mode sh.depth = true) (hk : x + k ≤ sh.width) (h : AgreeOn m m' row (bytesPerLine sh)) :
    convPixels cfg m sh row x k = convPixels cfg m' sh row x k := by
  induction k generalizing x with
  | zero => rfl
  | succ k ih => rw [convPixels, convPixels, pixelAt_congr cfg hlegal (by omega) h, ih (by omega)]

/-- Rows converted in two memories that agree on their source bytes are the same (44_convert.md R360). -/
theorem convRows_congr (cfg : ImageConfig) {m m' : Memory} {sh : ImageShape} {src y k : Nat}
    (hlegal : depthLegal sh.mode sh.depth = true)
    (h : AgreeOn m m' (src + y * bytesPerLine sh) (k * bytesPerLine sh)) :
    convRows cfg m sh src y k = convRows cfg m' sh src y k := by
  induction k generalizing y with
  | zero => rfl
  | succ k ih =>
    rw [Nat.succ_mul] at h
    have hrow := convPixels_congr cfg (x := 0) hlegal (Nat.zero_add _).le (h.mono le_rfl (by omega))
    have hnext : src + (y + 1) * bytesPerLine sh = src + y * bytesPerLine sh + bytesPerLine sh := by
      rw [Nat.succ_mul, Nat.add_assoc]
    have hrest := ih (y := y + 1) (h.mono (by omega) (by omega))
    rw [convRows, convRows, hrow, hrest]

/-- Settles O42: each command's output is a function of its source bytes, and reads back the same over any memory. -/
theorem unreadBytesDoNotMatter : Obligations.UnreadBytesDoNotMatter := by
  refine ⟨fun s sh m hwf hwf' hs hagree => ?_, fun s sh m hwf hwf' hs hagree => ?_⟩
  · obtain ⟨rows, hrows⟩ := readScanlines_of_tags_le hs.tags
    have hlen := reconRows_length_of_read (bytesPerPixel sh) hrows
    have hsame : readScanlines m s.arg0.toNat (bytesPerLine sh) 0 sh.height = .ok rows :=
      (readScanlines_congr (by simpa [AgreeOn] using hagree)).trans hrows
    exact ⟨_, _, exec_defilt_of_ready hs hrows, exec_defilt_of_ready (hs.withMemory hagree) hsame,
      fun k hk => memByte_memWrite_same_bytes hwf' hwf _ _ _ (hlen ▸ hk)⟩
  · obtain ⟨-, hlegal, -⟩ := imageShape_eq_some hs.shape
    have hsame : convRows s.cfg m sh s.arg0.toNat 0 sh.height = convRows s.cfg s.mem sh s.arg0.toNat 0 sh.height :=
      convRows_congr s.cfg hlegal (by simpa [AgreeOn] using hagree)
    have hu : ConvReady { s with mem := m } sh := { hs with }
    refine ⟨_, _, exec_conv_of_ready hs, exec_conv_of_ready hu, fun k hk => ?_⟩
    show memByte (memWrite m _ (convRows s.cfg m sh _ 0 sh.height)) _ = _
    rw [hsame]
    exact memByte_memWrite_same_bytes hwf' hwf _ _ _ (convRows_length_of_image s.cfg s.mem sh _ ▸ hk)

end Sys2Proof.Machine
end

section
/-! Settles O35 to O39 and O43 (44_convert.md R351 to R360): `CONV`, its checks in order, the bytes of each pixel by
colour mode and depth, and that a second run on the same operands changes nothing. -/

namespace Sys2Proof.Machine

/-! ### The checks of `CONV` in order -/

section
variable {s : State}

theorem convBody_of_open (hopen : ¬(s.seq.state = .idle ∨ s.seq.state = .done)) :
    convBody s = .raise .badCommand 5 :=
  if_pos (Bool.eq_false_iff.mpr (mt (streamClosed_iff s).mp hopen))

variable (hclosed : s.seq.state = .idle ∨ s.seq.state = .done)
include hclosed

theorem convBody_of_no_header (hv : s.cfg.valid.hdr = false) : convBody s = .raise .conversionFailed 3 := by
  simp [convBody, (streamClosed_iff s).mpr hclosed, hv]

variable (hv : s.cfg.valid.hdr = true)
include hv

theorem convBody_of_source_outside (hsrc : s.params.memSize < s.arg0.toNat + s.arg1.toNat) :
    convBody s = .raise .badAddress 1 := by
  simp [convBody, srcAddr, srcLen, (streamClosed_iff s).mpr hclosed, hv, (inMem_false_iff _ _ _).mpr hsrc]

variable (hsrc : s.arg0.toNat + s.arg1.toNat ≤ s.params.memSize)
include hsrc

theorem convBody_of_destination_outside (hdst : s.params.memSize < s.arg2.toNat + s.arg3.toNat) :
    convBody s = .raise .badAddress 3 := by
  simp [convBody, srcAddr, srcLen, dstAddr, dstCap, (streamClosed_iff s).mpr hclosed, hv,
    (inMem_iff _ _ _).mpr hsrc, (inMem_false_iff _ _ _).mpr hdst]

theorem convBody_of_shape (hdst : s.arg2.toNat + s.arg3.toNat ≤ s.params.memSize) {sh : ImageShape}
    (hshape : imageShape s.cfg = some sh) : convBody s = convImage s sh := by
  simp [convBody, srcAddr, srcLen, dstAddr, dstCap, (streamClosed_iff s).mpr hclosed, hv,
    (inMem_iff _ _ _).mpr hsrc, (inMem_iff _ _ _).mpr hdst, hshape]

end

section
variable {s : State} {sh : ImageShape}

theorem convImage_of_short (h : s.arg1.toNat < sh.height * bytesPerLine sh) :
    convImage s sh = .raise .conversionFailed 1 := if_pos h

variable (henough : sh.height * bytesPerLine sh ≤ s.arg1.toNat)
include henough

theorem convImage_of_no_palette (h : sh.mode = .palette ∧ s.cfg.valid.plte = false) :
    convImage s sh = .raise .conversionFailed 2 :=
  (if_neg (Nat.not_lt.mpr henough)).trans (if_pos h)

theorem convImage_of_small (hpalette : ¬(sh.mode = .palette ∧ s.cfg.valid.plte = false))
    (h : s.arg3.toNat < sh.width * sh.height * 4) : convImage s sh = .raise .allocationFailed 3 :=
  (if_neg (Nat.not_lt.mpr henough)).trans ((if_neg hpalette).trans (if_pos h))

end

/-- Settles O35: each check that fails, once those before it pass. -/
theorem convErrors : Obligations.ConvErrors := by
  intro s closed srcOk dstOk
  have hraise {e : ErrorKind} {info : Word} (hr : convBody s = .raise e info) :
      exec .conv s = .next (errorNext s (errorCode e) info) := congrArg (finish s) hr
  refine ⟨fun hopen => hraise (convBody_of_open hopen), fun hc hv => hraise (convBody_of_no_header hc hv),
    fun hc hv hsrc => hraise (convBody_of_source_outside hc hv (Nat.not_le.mp hsrc)),
    fun hc hv hsrc hdst => hraise (convBody_of_destination_outside hc hv hsrc (Nat.not_le.mp hdst)),
    fun hc hv hsrc hdst sh hshape => ?_⟩
  have hbody := convBody_of_shape hc hv hsrc hdst hshape
  exact ⟨fun hshort => hraise (hbody.trans (convImage_of_short hshort)),
    fun henough hnone => hraise (hbody.trans (convImage_of_no_palette henough hnone)),
    fun henough hpalette hsmall => hraise (hbody.trans (convImage_of_small henough hpalette hsmall))⟩

/-! ### The bytes of a pixel in memory -/

/-- `CONV` once its checks pass: the four bytes of pixel `(y, x)` stand at its place in the row-major output, converted
from the memory the command began with (44_convert.md R351, R352). -/
theorem exec_conv_pixels {s : State} {sh : ImageShape} (hwf : Memory.wf s.mem) (hr : ConvReady s sh) :
    ∃ t, exec .conv s = .next t ∧ t = successNext { s with mem := t.mem } ∧
      ∀ y < sh.height, ∀ x < sh.width, memRead t.mem (s.arg2.toNat + 4 * (y * sh.width + x)) 4 =
        pixelAt s.cfg s.mem sh (s.arg0.toNat + y * bytesPerLine sh) x := by
  refine ⟨_, exec_conv_of_ready hr, rfl, fun y hy x hx => List.ext_getElem (by simp) fun c hc hc' => ?_⟩
  have hc4 : c < 4 := by simpa using hc
  have hplace := row_byte_lt hy hx
  have hlen := convRows_length_of_image s.cfg s.mem sh s.arg0.toNat
  rw [memRead_getElem, complete_mem, Nat.add_assoc,
    memByte_memWrite_getD hwf _ _ (by rw [hlen, Nat.mul_comm sh.width]; omega),
    convRows_getD s.cfg s.mem sh s.arg0.toNat 0 sh.height hy hx hc4, Nat.zero_add, List.getD_eq_getElem _ _ hc']

theorem memRead_four_eq_iff (m : Memory) (a : Nat) (r g b alpha : Byte) :
    memRead m a 4 = [r, g, b, alpha] ↔
      memByte m a = r ∧ memByte m (a + 1) = g ∧ memByte m (a + 2) = b ∧ memByte m (a + 3) = alpha := by
  simp [memRead]

/-! ### Samples and key transparency -/

theorem highByte_toNat (v : BitVec 16) : (highByte v).toNat = v.toNat / 256 := by
  have hv := v.isLt
  rw [highByte, BitVec.extractLsb'_toNat, Nat.shiftRight_eq_div_pow]
  omega

theorem byte_zeroExtend_toNat (b : Byte) : (b.zeroExtend 16).toNat = b.toNat := BitVec.toNat_setWidth_of_le (by decide)

/-- At depth 8 a sample is a whole byte (43_defilter.md R315). -/
theorem extractSample_eight (m : Memory) (row x : Nat) : extractSample m row x 8 = memByte m (row + x) := by
  apply BitVec.eq_of_toNat_eq
  rw [extractSample_toNat m row x 8 (by decide), Nat.mul_mod_left, Nat.mul_div_cancel _ (by decide)]
  exact (Nat.mod_eq_of_lt (Nat.div_one _ ▸ BitVec.isLt _)).trans (Nat.div_one _)

theorem grayAlphaOf_toNat (cfg : ImageConfig) (smp : BitVec 16) :
    (grayAlphaOf cfg smp).toNat = if cfg.valid.trns = true ∧ smp.toNat = cfg.trnsKey0.toNat then 0 else 255 := by
  simp only [grayAlphaOf, ← BitVec.toNat_inj]
  split <;> rfl

theorem rgbAlphaOf_toNat (cfg : ImageConfig) (r g b : BitVec 16) :
    (rgbAlphaOf cfg r g b).toNat = if cfg.valid.trns = true ∧ r.toNat = cfg.trnsKey0.toNat ∧
      g.toNat = cfg.trnsKey1.toNat ∧ b.toNat = cfg.trnsKey2.toNat then 0 else 255 := by
  simp only [rgbAlphaOf, ← BitVec.toNat_inj]
  split <;> rfl

/-! ### Gray -/

/-- The raw Gray sample of pixel `x` of the row at `row` (44_convert.md R353, R354). -/
def rawGray (m : Memory) (d row x : Nat) : Nat :=
  if d = 16 then 256 * (memByte m (row + 2 * x)).toNat + (memByte m (row + 2 * x + 1)).toNat
  else (memByte m (row + x * d / 8)).toNat / 2 ^ (8 - d - x * d % 8) % 2 ^ d

/-- The Gray output level of a raw sample (44_convert.md R353, R354). -/
def grayLevel (d raw : Nat) : Nat :=
  if d = 1 then 255 * raw else if d = 2 then 85 * raw else if d = 4 then 17 * raw
    else if d = 8 then raw else raw / 256

theorem rawGray_of_le_eight (m : Memory) {d : Nat} (row x : Nat) (hd : d = 1 ∨ d = 2 ∨ d = 4 ∨ d = 8) :
    rawGray m d row x = (extractSample m row x d).toNat := by
  rw [extractSample_toNat m row x d hd, rawGray, if_neg (by omega)]

theorem rawGray_sixteen (m : Memory) (row x : Nat) : rawGray m 16 row x = (be16 m (row + 2 * x)).toNat :=
  (be16_toNat _ _).symm

/-- A sub-byte sample scaled: the division is exact at each depth (44_convert.md R353). -/
theorem scaleSample_toNat {smp : Byte} {d : Nat} (hd : d = 1 ∨ d = 2 ∨ d = 4) (h : smp.toNat < 2 ^ d) :
    (scaleSample smp d).toNat = grayLevel d smp.toNat := by
  rcases hd with rfl | rfl | rfl
  all_goals
    simp only [scaleSample, grayLevel, BitVec.toNat_ofNat, Nat.reduceEqDiff, if_true, if_false]
    omega

/-- A Gray pixel has the level of its raw sample three times, and the alpha of the raw sample (44_convert.md R353, R354,
R359). -/
theorem pixelGray_eq_of_raw (cfg : ImageConfig) (m : Memory) {d : Nat} (row x : Nat)
    (hd : d = 1 ∨ d = 2 ∨ d = 4 ∨ d = 8 ∨ d = 16) :
    ∃ (g : Byte) (smp : BitVec 16), pixelGray cfg m d row x = [g, g, g, grayAlphaOf cfg smp] ∧
      smp.toNat = rawGray m d row x ∧ g.toNat = grayLevel d (rawGray m d row x) := by
  obtain hsub | rfl | rfl : (d = 1 ∨ d = 2 ∨ d = 4) ∨ d = 8 ∨ d = 16 := by omega
  · rw [rawGray_of_le_eight m row x (by omega)]
    exact ⟨_, _, if_pos (by omega), byte_zeroExtend_toNat _,
      scaleSample_toNat hsub (extractSample_lt m row x d (by omega))⟩
  · rw [rawGray_of_le_eight m row x (by decide), extractSample_eight]
    exact ⟨_, _, rfl, byte_zeroExtend_toNat _, rfl⟩
  · rw [rawGray_sixteen]
    exact ⟨_, _, rfl, rfl, highByte_toNat _⟩

/-- Settles O36: each pixel in memory is the Gray pixel of its raw sample. -/
theorem convGrayPixels : Obligations.ConvGrayPixels := by
  intro s sh hwf hr hmode
  obtain ⟨t, hexec, hstate, hpixels⟩ := exec_conv_pixels hwf hr
  obtain ⟨-, hlegal, -⟩ := imageShape_eq_some hr.shape
  rw [hmode, depthLegal_iff] at hlegal
  refine ⟨t, hexec, hstate, fun y hy x hx => ?_⟩
  obtain ⟨g, smp, hpixel, hraw, hg⟩ :=
    pixelGray_eq_of_raw s.cfg s.mem (s.arg0.toNat + y * bytesPerLine sh) x hlegal
  have hbytes := hpixels y hy x hx
  rw [pixelAt, hmode, hpixel, memRead_four_eq_iff] at hbytes
  obtain ⟨hb0, hb1, hb2, hb3⟩ := hbytes
  have ha := grayAlphaOf_toNat s.cfg smp
  rw [hraw] at ha
  exact ⟨hb0 ▸ hg, hb1 ▸ hg, hb2 ▸ hg, hb3 ▸ ha⟩

/-! ### RGB -/

/-- The raw sample of channel `k` of pixel `x` of the RGB row at `row` (44_convert.md R355). -/
def rawRgb (m : Memory) (d row x k : Nat) : Nat :=
  if d = 8 then (memByte m (row + 3 * x + k)).toNat
  else 256 * (memByte m (row + 6 * x + 2 * k)).toNat + (memByte m (row + 6 * x + 2 * k + 1)).toNat

/-- An RGB pixel has the byte, or the high byte, of each raw sample, and the alpha of the three (44_convert.md R355,
R359). -/
theorem pixelRgb_eq_of_raw (cfg : ImageConfig) (m : Memory) (d row x : Nat) :
    ∃ (c : Nat → Byte) (smp : Nat → BitVec 16),
      pixelRgb cfg m d row x = [c 0, c 1, c 2, rgbAlphaOf cfg (smp 0) (smp 1) (smp 2)] ∧
      (∀ k, (smp k).toNat = rawRgb m d row x k) ∧
      ∀ k, (c k).toNat = if d = 8 then rawRgb m d row x k else rawRgb m d row x k / 256 := by
  by_cases hd : d = 8
  · refine ⟨fun k => memByte m (row + 3 * x + k), fun k => (memByte m (row + 3 * x + k)).zeroExtend 16, if_pos hd,
      fun k => ?_, fun k => ?_⟩
    · rw [byte_zeroExtend_toNat, rawRgb, if_pos hd]
    · rw [rawRgb, if_pos hd, if_pos hd]
  · refine ⟨fun k => highByte (be16 m (row + 6 * x + 2 * k)), fun k => be16 m (row + 6 * x + 2 * k), if_neg hd,
      fun k => ?_, fun k => ?_⟩
    · rw [be16_toNat, rawRgb, if_neg hd]
    · rw [highByte_toNat, be16_toNat, rawRgb, if_neg hd, if_neg hd]

/-- Settles O37: each pixel in memory is the RGB pixel of its three raw samples. -/
theorem convRgbPixels : Obligations.ConvRgbPixels := by
  intro s sh hwf hr hmode
  obtain ⟨t, hexec, hstate, hpixels⟩ := exec_conv_pixels hwf hr
  refine ⟨t, hexec, hstate, fun y hy x hx => ?_⟩
  obtain ⟨c, smp, hpixel, hraw, hc⟩ :=
    pixelRgb_eq_of_raw s.cfg s.mem sh.depth (s.arg0.toNat + y * bytesPerLine sh) x
  have hbytes := hpixels y hy x hx
  rw [pixelAt, hmode, hpixel, memRead_four_eq_iff] at hbytes
  obtain ⟨hb0, hb1, hb2, hb3⟩ := hbytes
  have ha := rgbAlphaOf_toNat s.cfg (smp 0) (smp 1) (smp 2)
  rw [hraw, hraw, hraw] at ha
  refine ⟨fun k hk => ?_, hb3 ▸ ha⟩
  interval_cases k
  exacts [hb0 ▸ hc 0, hb1 ▸ hc 1, hb2 ▸ hc 2]

/-! ### Palette -/

/-- Settles O38: each pixel in memory has the colour and the alpha of its index, each looked up on its own. -/
theorem convPalettePixels : Obligations.ConvPalettePixels := by
  intro s sh hwf hr hmode
  obtain ⟨t, hexec, hstate, hpixels⟩ := exec_conv_pixels hwf hr
  obtain ⟨-, hlegal, -⟩ := imageShape_eq_some hr.shape
  rw [hmode, depthLegal_iff] at hlegal
  refine ⟨t, hexec, hstate, fun y hy x hx => ?_⟩
  have hbytes := hpixels y hy x hx
  rw [pixelAt, hmode, pixelPalette, memRead_four_eq_iff] at hbytes
  obtain ⟨hred, hgreen, hblue, halpha⟩ := hbytes
  refine ⟨_, extractSample_toNat s.mem _ x sh.depth hlegal, fun hin => ?_, fun hout => ?_, halpha⟩
  · rw [paletteColor, if_pos hin] at hred hgreen hblue
    exact ⟨hred, hgreen, hblue⟩
  · rw [paletteColor, if_neg (Nat.not_lt.mpr hout)] at hred hgreen hblue
    exact ⟨hred, hgreen, hblue⟩

/-! ### GrayAlpha and RGBA -/

theorem pixelGrayAlpha_eq (m : Memory) {d : Nat} (row x : Nat) (hd : d = 8 ∨ d = 16) :
    pixelGrayAlpha m d row x =
      grayPixel (memByte m (row + 2 * (d / 8) * x)) (memByte m (row + 2 * (d / 8) * x + d / 8)) := by
  rcases hd with rfl | rfl <;> rfl

/-- The source byte that gives channel `k` of pixel `x` of the RGBA row at `row` (44_convert.md R358). -/
def rgbaByte (m : Memory) (d row x k : Nat) : Byte := memByte m (row + 4 * (d / 8) * x + d / 8 * k)

theorem pixelRgba_eq (m : Memory) {d : Nat} (row x : Nat) (hd : d = 8 ∨ d = 16) :
    pixelRgba m d row x = [rgbaByte m d row x 0, rgbaByte m d row x 1, rgbaByte m d row x 2, rgbaByte m d row x 3] := by
  rcases hd with rfl | rfl <;> rfl

/-- Settles O39: each pixel in memory is its source bytes, a sample of `depth / 8` bytes giving its first. -/
theorem convAlphaModePixels : Obligations.ConvAlphaModePixels := by
  intro s sh hwf hr hmode
  obtain ⟨t, hexec, hstate, hpixels⟩ := exec_conv_pixels hwf hr
  obtain ⟨-, hlegal, -⟩ := imageShape_eq_some hr.shape
  have hdepth : sh.depth = 8 ∨ sh.depth = 16 := by
    rcases hmode with hmode | hmode <;> rwa [hmode, depthLegal_iff] at hlegal
  refine ⟨t, hexec, hstate, fun y hy x hx => ?_⟩
  have hbytes := hpixels y hy x hx
  refine ⟨fun hgrayAlpha => ?_, fun hrgba k hk => ?_⟩
  · rw [pixelAt, hgrayAlpha, pixelGrayAlpha_eq _ _ _ hdepth, grayPixel, memRead_four_eq_iff] at hbytes
    obtain ⟨hb0, hb1, hb2, hb3⟩ := hbytes
    refine ⟨fun k hk => ?_, hb3⟩
    interval_cases k
    exacts [hb0, hb1, hb2]
  · rw [pixelAt, hrgba, pixelRgba_eq _ _ _ hdepth, memRead_four_eq_iff] at hbytes
    obtain ⟨hb0, hb1, hb2, hb3⟩ := hbytes
    interval_cases k
    exacts [hb0, hb1, hb2, hb3]

/-! ### A second run -/

/-- Bytes written over the same bytes change nothing. -/
theorem memWrite_memWrite_same {m : Memory} (h : Memory.wf m) (a : Nat) (bs : List Byte) :
    memWrite (memWrite m a bs) a bs = memWrite m a bs := by
  have hwf := memWrite_wf h a bs
  refine Memory.ext_of_wf (memWrite_wf hwf a bs) hwf fun b => ?_
  by_cases hb : a ≤ b ∧ b < a + bs.length
  · obtain ⟨k, rfl⟩ := Nat.exists_eq_add_of_le hb.1
    exact memByte_memWrite_same_bytes hwf h a a bs (by omega)
  · exact memByte_memWrite_outside _ _ hb

/-- Settles O43: the second run reads the same source, so it writes the same bytes over its own output. -/
theorem convIsIdempotent : Obligations.ConvIsIdempotent := by
  intro s sh hwf hr hdisjoint
  refine ⟨_, exec_conv_of_ready hr, ?_⟩
  obtain ⟨-, hlegal, -⟩ := imageShape_eq_some hr.shape
  have hlen := convRows_length_of_image s.cfg s.mem sh s.arg0.toNat
  generalize hpixels : convRows s.cfg s.mem sh s.arg0.toNat 0 sh.height = pixels at hlen ⊢
  have hsource : AgreeOn (memWrite s.mem s.arg2.toNat pixels) s.mem (s.arg0.toNat + 0 * bytesPerLine sh)
      (sh.height * bytesPerLine sh) := fun k hk => memByte_memWrite_outside _ _ (by omega)
  have hsame : convRows s.cfg (memWrite s.mem s.arg2.toNat pixels) sh s.arg0.toNat 0 sh.height = pixels :=
    (convRows_congr s.cfg hlegal hsource).trans hpixels
  have hready : ConvReady (complete { s with mem := memWrite s.mem s.arg2.toNat pixels }) sh := { hr with }
  rw [exec_conv_of_ready hready]
  simp only [complete_mem, complete_cfg, complete_arg0, complete_arg2, hsame, memWrite_memWrite_same hwf]
  rfl

end Sys2Proof.Machine
end

section
/-! Settles O6 and O7 (49_control.md R390, R391): `NOP` is the success completion, and `SRESET` leaves the register
reset of 10_state.md R65, whose value of each register is said once. -/

namespace Sys2Proof.Machine

/-! ### The register reset as the host reads it -/

/-- What a register reads after a reset (10_state.md R65). -/
def resetValue : Reg → Word
  | .id => 0x504E4701
  | .crcState => 0xFFFFFFFF
  | _ => 0

theorem ctrlWord_reset : ctrlWord ⟨false⟩ = 0 := by decide

theorem statusWord_reset : statusWord ⟨false, false, false, false, 0⟩ = 0 := by decide

theorem seqWord_reset : seqWord ⟨.idle, false, false, false⟩ = 0 := by decide

theorem readReg_resetWith (p : Config.Params) (m : Memory) (r : Reg) :
    readReg (State.resetWith p m) r = resetValue r := by
  cases r with
  | ctrl => exact ctrlWord_reset
  | status => exact statusWord_reset
  | seq => exact seqWord_reset
  | cfgValid => exact cfgValidWord_cleared
  | hdrFmt => exact hdrFmtWord_cleared
  | palette i => exact congrArg rgbWord (tableAt_replicate _ i)
  | alpha i => exact congrArg (BitVec.zeroExtend 32) (tableAt_replicate _ i)
  | _ => rfl

theorem readReg_resetRegisters (s : State) (r : Reg) : readReg (resetRegisters s) r = resetValue r :=
  (readReg_hostSide (State.resetWith s.params s.mem) s.turns s.readData r).trans (readReg_resetWith s.params s.mem r)

/-! ### `NOP` -/

/-- Settles O6: `NOP` completes with the state it began in. -/
theorem nopCompletes : Obligations.NopCompletes := ⟨by decide, fun s => finish_ok s s⟩

/-! ### `SRESET` -/

/-- 49_control.md R391: the register reset but for `CTRL` and `CMD`, and then the success completion. -/
theorem exec_sreset (s : State) :
    exec .sreset s = .next (complete { resetRegisters s with ctrl := s.ctrl, cmd := 0x00000001 }) :=
  finish_ok s _

/-- The completion's `STATUS`: `DONE` alone (10_state.md R35). -/
theorem statusWord_done : statusWord ⟨false, true, false, false, 0⟩ = 0x00000002 := by decide

/-- Settles O7: three registers have their own values, every other its reset value. -/
theorem sresetResult : Obligations.SresetResult := by
  refine ⟨by decide, fun s => ⟨_, exec_sreset s, fun r => ?_, rfl, rfl, rfl, rfl, rfl⟩⟩
  have hreset := readReg_resetRegisters s r
  cases r with
  | ctrl | cmd => rfl
  | status => exact statusWord_done
  | _ => exact hreset

end Sys2Proof.Machine
end

section
/-! Settles O45, O46, O47, O51, O24, O49 and O50 (60_exceptions.md R401 to R417): the errors each command body raises, said
once for each body; the three ways a command completes, from which the rules of every completion follow; and the steps
that write `STATUS` without a completion. -/

namespace Sys2Proof.Machine

/-! ### The errors of each command (60_exceptions.md R403) -/

/-- Of `header_load` (42_loaders.md R271). -/
def headerErrors : List (ErrorKind × Word) :=
  [(.invalidHeader, 1), (.invalidHeader, 2), (.invalidHeader, 3), (.invalidHeader, 4), (.invalidHeader, 5),
    (.invalidHeader, 6), (.invalidHeader, 7)]

/-- Of `palette_load` over a valid header (42_loaders.md R275). -/
def paletteErrors : List (ErrorKind × Word) := [(.outOfOrderChunk, 4), (.invalidPalette, 1), (.invalidPalette, 2)]

/-- Of `trns_load` over a valid header (42_loaders.md R277). -/
def transparencyErrors : List (ErrorKind × Word) :=
  [(.invalidTransparency, 1), (.invalidTransparency, 2), (.invalidTransparency, 3)]

/-- Of `zb_append` (42_loaders.md R279). -/
def appendErrors : List (ErrorKind × Word) := [(.badAddress, 2), (.allocationFailed, 1)]

/-- Of a chunk's loader over a valid header (41_framer.md R237). -/
def loaderErrors : List (ErrorKind × Word) := headerErrors ++ paletteErrors ++ transparencyErrors ++ appendErrors

/-- Of a chunk before its loader runs (41_framer.md R234, R236). -/
def chunkErrors : List (ErrorKind × Word) :=
  [(.truncatedOrCorrupt, 1), (.truncatedOrCorrupt, 2), (.truncatedOrCorrupt, 3), (.outOfOrderChunk, 1),
    (.outOfOrderChunk, 2), (.outOfOrderChunk, 3), (.outOfOrderChunk, 5)]

/-- The errors of each command's row of R403 that are listed one by one; `DEFILT` has one more for each bad row. -/
def errorRow : Instr → List (ErrorKind × Word)
  | .nop | .sreset | .crcInit | .crcByte _ | .crcFinal => []
  | .crcMem | .frStart | .sample _ => [(.badAddress, 1)]
  | .frSig => [(.badCommand, 4), (.signatureMismatch, 1), (.signatureMismatch, 2)]
  | .frChunk => [(.badCommand, 4), (.outOfOrderChunk, 6)] ++ (chunkErrors ++ loaderErrors)
  | .ldHdr => (.badAddress, 1) :: headerErrors
  | .ldPlte => (.badAddress, 1) :: (.outOfOrderChunk, 7) :: paletteErrors
  | .ldTrns => (.badAddress, 1) :: (.outOfOrderChunk, 7) :: transparencyErrors
  | .zbAppend => (.badAddress, 1) :: appendErrors
  | .defilt =>
    [(.badCommand, 5), (.invalidHeader, 8), (.badAddress, 1), (.badAddress, 3), (.truncatedImageData, 1),
      (.allocationFailed, 2)]
  | .fltByte _ => [(.invalidFilterType, 0)]
  | .conv =>
    [(.badCommand, 5), (.conversionFailed, 3), (.badAddress, 1), (.badAddress, 3), (.conversionFailed, 1),
      (.conversionFailed, 2), (.allocationFailed, 3)]

/-- All the errors of each command in any state. The last two have no place in a run: no state of the invariant is in
BODY without a header, and no word decodes to a `SAMPLE` of another depth. -/
inductive CanRaise (s : State) : Instr → ErrorKind → Word → Prop
  | row {i : Instr} {e : ErrorKind} {info : Word} (h : (e, info) ∈ errorRow i) : CanRaise s i e info
  | badFilterTag {y : Nat} (hy : y < s.cfg.hdrHeight.toNat) :
    CanRaise s .defilt .invalidFilterType (BitVec.ofNat 32 y)
  | chunkWithoutHeader (hq : s.seq.state = .body) (hv : s.cfg.valid.hdr = false) :
    CanRaise s .frChunk .outOfOrderChunk 7
  | illegalDepth {d : Byte} (hd : sampleDepthLegal d = false) : CanRaise s (.sample d) .badCommand 3

theorem CanRaise.ne_decompressionFailed {s : State} {i : Instr} {e : ErrorKind} {info : Word}
    (h : CanRaise s i e info) : e ≠ .decompressionFailed := by
  have hrow : ∀ p ∈ errorRow i, p.1 ≠ .decompressionFailed := by
    cases i with
    | crcByte | fltByte | sample => simp [errorRow]
    | _ => decide
  cases h with
  | row h => exact hrow _ h
  | badFilterTag | chunkWithoutHeader | illegalDepth => nofun

/-! ### The errors of each body -/

section
variable {s : State} {a n : Nat} {e : ErrorKind} {info : Word}

theorem crcMemBody_raise (h : crcMemBody s = .raise e info) : (e, info) ∈ errorRow .crcMem := by
  rcases crcMemBody_cases s with ⟨-, hr⟩ | ⟨-, hr⟩ <;> cases hr.symm.trans h
  decide

theorem frStartBody_raise (h : frStartBody s = .raise e info) : (e, info) ∈ errorRow .frStart := by
  rcases frStartBody_cases s with ⟨-, hr⟩ | ⟨-, hr⟩ <;> cases hr.symm.trans h
  decide

theorem frSigBody_raise (h : frSigBody s = .raise e info) : (e, info) ∈ errorRow .frSig := by
  rcases frSigBody_cases s with ⟨-, hr⟩ | ⟨-, -, hr⟩ | hr | hr <;> cases hr.symm.trans h
  all_goals decide

theorem headerLoad_raise (h : headerLoad s a n = .raise e info) : (e, info) ∈ headerErrors := by
  rcases headerLoad_cases s a n with ⟨-, -, hr⟩ | ⟨_, hinfo, hr⟩ <;> cases hr.symm.trans h
  simpa [headerErrors] using hinfo

theorem paletteLoad_raise (h : paletteLoad s a n = .raise e info) :
    (e, info) ∈ paletteErrors ∨ s.cfg.valid.hdr = false ∧ (e, info) = (.outOfOrderChunk, 7) := by
  rcases paletteLoad_cases s a n with ⟨-, -, -, -, hr⟩ | ⟨hv, hr⟩ | ⟨-, hr | hr | hr⟩ <;> cases hr.symm.trans h
  · exact .inr ⟨hv, rfl⟩
  all_goals exact .inl (by decide)

theorem trnsLoad_raise (h : trnsLoad s a n = .raise e info) :
    (e, info) ∈ transparencyErrors ∨ s.cfg.valid.hdr = false ∧ (e, info) = (.outOfOrderChunk, 7) := by
  rcases trnsLoad_cases s a n with ⟨u, hr, -⟩ | ⟨hv, hr⟩ | ⟨-, hr | hr | hr⟩ | ⟨-, -, hr⟩ <;> cases hr.symm.trans h
  · exact .inr ⟨hv, rfl⟩
  all_goals exact .inl (by decide)

theorem zbAppend_raise (h : zbAppend s a n = .raise e info) : (e, info) ∈ appendErrors := by
  rcases zbAppend_cases s a n with ⟨-, -, hr⟩ | hr | hr <;> cases hr.symm.trans h
  all_goals decide

/-- A loader command adds the payload outside data memory (42_loaders.md R270, R274, R276, R278). -/
theorem onPayload_raise {body : State → Nat → Nat → Res State} (h : onPayload body s = .raise e info) :
    (e, info) = (.badAddress, 1) ∨ body s s.arg0.toNat s.arg1.toNat = .raise e info := by
  rcases onPayload_cases body s with ⟨-, hr⟩ | ⟨-, hr⟩
  · cases hr.symm.trans h
    exact .inl rfl
  · exact .inr (hr.symm.trans h)

theorem defiltImage_raise {sh : ImageShape} (hheight : sh.height = s.cfg.hdrHeight.toNat)
    (h : defiltImage s sh = .raise e info) : CanRaise s .defilt e info := by
  rcases defiltImage_cases s sh with ⟨hr, -⟩ | ⟨hr, -⟩ | ⟨y, hy, hr⟩ | ⟨rows, -, -, -, hr⟩ <;> cases hr.symm.trans h
  · exact .row (by decide)
  · exact .row (by decide)
  · exact .badFilterTag (hheight ▸ hy)

theorem defiltBody_raise (h : defiltBody s = .raise e info) : CanRaise s .defilt e info := by
  rcases defiltBody_cases s with ⟨hr, -⟩ | ⟨hr, -⟩ | ⟨hr, -⟩ | ⟨hr, -⟩ | ⟨hr, -⟩ | ⟨sh, hshape, -, -, hr⟩
  case inr.inr.inr.inr.inr =>
    obtain ⟨-, -, -, -, hheight⟩ := imageShape_eq_some hshape
    exact defiltImage_raise hheight (hr.symm.trans h)
  all_goals cases hr.symm.trans h
  all_goals exact .row (by decide)

theorem convImage_raise {sh : ImageShape} (h : convImage s sh = .raise e info) : (e, info) ∈ errorRow .conv := by
  rcases convImage_cases s sh with ⟨hr, -⟩ | ⟨hr, -⟩ | ⟨hr, -⟩ | ⟨-, -, -, hr⟩ <;> cases hr.symm.trans h
  all_goals decide

theorem convBody_raise (h : convBody s = .raise e info) : (e, info) ∈ errorRow .conv := by
  rcases convBody_cases s with ⟨hr, -⟩ | ⟨hr, -⟩ | ⟨hr, -⟩ | ⟨hr, -⟩ | ⟨hr, -⟩ | ⟨sh, -, -, -, hr⟩
  case inr.inr.inr.inr.inr => exact convImage_raise (hr.symm.trans h)
  all_goals cases hr.symm.trans h
  all_goals decide

theorem fltByteBody_raise {t : Byte} (h : fltByteBody t s = .raise e info) : (e, info) ∈ errorRow (.fltByte t) := by
  rcases fltByteBody_cases t s with ⟨-, hr⟩ | ⟨ft, -, hr⟩ <;> cases hr.symm.trans h
  exact List.mem_singleton_self _

theorem sampleBody_raise {d : Byte} (h : sampleBody d s = .raise e info) : CanRaise s (.sample d) e info := by
  rcases sampleBody_cases d s with ⟨hd, hr⟩ | ⟨-, hr⟩ | ⟨-, -, hr⟩ <;> cases hr.symm.trans h
  · exact .illegalDepth hd
  · exact .row (List.mem_singleton_self _)

theorem dispatchChunk_raise {cls : ChunkClass} (h : dispatchChunk cls s a n = .raise e info) :
    (e, info) ∈ loaderErrors ∨ cls ≠ .header ∧ s.cfg.valid.hdr = false ∧ (e, info) = (.outOfOrderChunk, 7) := by
  simp only [loaderErrors, List.mem_append]
  cases cls with
  | header => exact .inl (.inl (.inl (.inl (headerLoad_raise h))))
  | palette =>
    rcases paletteLoad_raise h with hmem | hno
    · exact .inl (.inl (.inl (.inr hmem)))
    · exact .inr ⟨nofun, hno⟩
  | transparency =>
    rcases trnsLoad_raise h with hmem | hno
    · exact .inl (.inl (.inr hmem))
    · exact .inr ⟨nofun, hno⟩
  | imageData => exact .inl (.inr (zbAppend_raise h))
  | noneYet | endMarker | other => cases h

/-- A header chunk in EXPECT_IHDR needs no header, so only a chunk in BODY can be without one (41_framer.md R236). -/
theorem frCheckCrc_raise (hq : s.seq.state = .expectIhdr ∨ s.seq.state = .body) {p len : Nat} {tag stored : Word}
    (h : frCheckCrc s p len tag stored = .raise e info) : CanRaise s .frChunk e info := by
  have hchunk (hmem : (e, info) ∈ chunkErrors) : CanRaise s .frChunk e info :=
    .row (List.mem_append_right _ (List.mem_append_left _ hmem))
  rcases frCheckCrc_cases s p len tag stored with
    ⟨-, hr⟩ | ⟨-, _, hinfo, hr⟩ | ⟨-, horder, ⟨u, -, hr⟩ | ⟨_, _, he, hr⟩ | ⟨f, -, hr⟩⟩ <;> cases hr.symm.trans h
  · exact hchunk (by decide)
  · have hcause := checkOrder_eq_some hinfo
    exact hchunk (by simpa [chunkErrors] using hcause)
  · rcases dispatchChunk_raise he with hmem | ⟨hcls, hv, hpair⟩
    · exact .row (List.mem_append_right _ (List.mem_append_right _ hmem))
    · cases hpair
      rcases hq with hq | hq
      · exact absurd (checkOrder_expectIhdr hq horder) hcls
      · exact .chunkWithoutHeader hq hv

end

/-! ### The completions of each command -/

/-- A body leaves the registers of the host's handshake alone (10_state.md R34, R35, R38). -/
structure KeepsHandshake (s u : State) : Prop where
  ctrl : u.ctrl = s.ctrl
  status : u.status = s.status
  errInfo : u.errInfo = s.errInfo

/-- The states a command can leave (60_exceptions.md R410, R411, R417, 41_framer.md R239, 49_control.md R391). -/
inductive Completion (s : State) : Instr → State → Prop
  | sreset : Completion s .sreset (complete { resetRegisters s with ctrl := s.ctrl, cmd := 0x00000001 })
  | success {i : Instr} (hi : i ≠ .sreset) {u : State} (hu : KeepsHandshake s u) : Completion s i (complete u)
  | error {i : Instr} {e : ErrorKind} {info : Word} (he : CanRaise s i e info) {q : Seq}
    (hq : q = s.seq ∨ (q = { s.seq with state := .failed } ∧ (i = .frSig ∨ i = .frChunk))) {crc : Word}
    (hcrc : crc = s.chunkCrcCalc ∨
      (i = .frChunk ∧ crc = crc32 (chunkBytes s s.inPtr.toNat (be32 s.mem s.inPtr.toNat).toNat))) :
    Completion s i { raiseError s e info with seq := q, chunkCrcCalc := crc }

section
variable {s t : State} {i : Instr}

theorem completion_raiseError {e : ErrorKind} {info : Word} (he : CanRaise s i e info) :
    Completion s i (raiseError s e info) :=
  .error he (.inl rfl) (.inl rfl)

theorem completion_failStream (hi : i = .frSig ∨ i = .frChunk) {e : ErrorKind} {info : Word}
    (he : CanRaise s i e info) : Completion s i (failStream s e info) :=
  .error he (.inr ⟨rfl, hi⟩) (.inl rfl)

theorem completion_of_finish (hi : i ≠ .sreset) {r : Res State} (hok : ∀ u, r = .ok u → KeepsHandshake s u)
    (hraise : ∀ e info, r = .raise e info → CanRaise s i e info) (h : finish s r = .next t) : Completion s i t := by
  rcases finish_next h with ⟨u, hu, rfl⟩ | ⟨e, info, he, rfl⟩
  · exact .success hi (hok u hu)
  · exact completion_raiseError (hraise e info he)

theorem completion_of_frSig (h : exec .frSig s = .next t) : Completion s .frSig t := by
  rcases exec_frSig_cases s with hr | hr
  · obtain rfl := Host.Outcome.next.inj (hr.symm.trans h)
    exact completion_raiseError (.row (by decide))
  · rcases finishFramer_next (hr.symm.trans h) with ⟨u, hu, rfl⟩ | ⟨e, info, he, rfl⟩
    · obtain ⟨p, q, rfl⟩ := frSigBody_writes hu
      exact .success (by nofun) ⟨rfl, rfl, rfl⟩
    · exact completion_failStream (.inl rfl) (.row (frSigBody_raise he))

theorem completion_of_frChunkOpen (hq : s.seq.state = .expectIhdr ∨ s.seq.state = .body)
    (h : frChunkOpen s = .next t) : Completion s .frChunk t := by
  rcases frChunkOpen_cases s with ⟨-, hr⟩ | ⟨-, ⟨info, hinfo, hr⟩ | ⟨-, -, hr⟩⟩
  · cases hr.symm.trans h
  · obtain rfl := Host.Outcome.next.inj (hr.symm.trans h)
    refine completion_failStream (.inr rfl) (.row ?_)
    rcases hinfo with rfl | rfl <;> decide
  · rcases finishFramer_next (hr.symm.trans h) with ⟨u, hu, rfl⟩ | ⟨e, info, he, rfl⟩
    · obtain ⟨v, hv, rfl⟩ := frCheckCrc_ok hu
      obtain ⟨c, z, m, rfl⟩ := dispatchChunk_writes hv
      exact .success (by nofun) ⟨rfl, rfl, rfl⟩
    · have hcan : CanRaise s .frChunk e info := by
        cases frCheckCrc_raise (s := calcChunkCrc s _) hq he with
        | row hmem => exact .row hmem
        | chunkWithoutHeader hbody hv => exact .chunkWithoutHeader hbody hv
      exact .error hcan (.inr ⟨rfl, .inr rfl⟩) (.inr ⟨rfl, rfl⟩)

theorem completion_of_frChunk (h : exec .frChunk s = .next t) : Completion s .frChunk t := by
  cases hq : s.seq.state with
  | idle | expectSig | failed =>
    obtain rfl := Host.Outcome.next.inj ((exec_frChunk_of_not_started (by simp [hq])).symm.trans h)
    exact completion_raiseError (e := .badCommand) (info := 4) (.row (by decide))
  | done =>
    obtain rfl := Host.Outcome.next.inj ((exec_frChunk_of_done hq).symm.trans h)
    exact completion_failStream (e := .outOfOrderChunk) (info := 6) (.inr rfl) (.row (by decide))
  | expectIhdr => exact completion_of_frChunkOpen (.inl hq) ((exec_frChunk_of_open (.inl hq)).symm.trans h)
  | body => exact completion_of_frChunkOpen (.inr hq) ((exec_frChunk_of_open (.inr hq)).symm.trans h)

/-- Each command completes in one of the three ways. -/
theorem completion_of_exec (h : exec i s = .next t) : Completion s i t := by
  cases i with
  | sreset =>
    obtain rfl := Host.Outcome.next.inj ((exec_sreset s).symm.trans h)
    exact .sreset
  | frSig => exact completion_of_frSig h
  | frChunk => exact completion_of_frChunk h
  | nop | crcInit | crcByte | crcFinal =>
    obtain rfl := Host.Outcome.next.inj h
    exact .success (by nofun) ⟨rfl, rfl, rfl⟩
  | crcMem =>
    refine completion_of_finish nofun (fun u hu => ?_) (fun _ _ hr => .row (crcMemBody_raise hr)) h
    obtain ⟨c, rfl⟩ := crcMemBody_writes hu
    exact ⟨rfl, rfl, rfl⟩
  | frStart =>
    refine completion_of_finish nofun (fun u hu => ?_) (fun _ _ hr => .row (frStartBody_raise hr)) h
    obtain rfl := frStartBody_ok hu
    exact ⟨rfl, rfl, rfl⟩
  | ldHdr =>
    refine completion_of_finish nofun (fun u hu => ?_) (fun e info hr => .row ?_) h
    · obtain ⟨c, rfl⟩ := headerLoad_writes (onPayload_ok hu)
      exact ⟨rfl, rfl, rfl⟩
    · exact List.mem_cons.mpr ((onPayload_raise hr).imp_right headerLoad_raise)
  | ldPlte =>
    refine completion_of_finish nofun (fun u hu => ?_) (fun e info hr => .row ?_) h
    · obtain ⟨k, p, v, rfl⟩ := paletteLoad_writes (onPayload_ok hu)
      exact ⟨rfl, rfl, rfl⟩
    · refine List.mem_cons.mpr ((onPayload_raise hr).imp_right fun hload => List.mem_cons.mpr ?_)
      exact (paletteLoad_raise hload).symm.imp_left And.right
  | ldTrns =>
    refine completion_of_finish nofun (fun u hu => ?_) (fun e info hr => .row ?_) h
    · obtain ⟨k0, k1, k2, al, rfl⟩ := trnsLoad_ok (onPayload_ok hu)
      exact ⟨rfl, rfl, rfl⟩
    · refine List.mem_cons.mpr ((onPayload_raise hr).imp_right fun hload => List.mem_cons.mpr ?_)
      exact (trnsLoad_raise hload).symm.imp_left And.right
  | zbAppend =>
    refine completion_of_finish nofun (fun u hu => ?_) (fun e info hr => .row ?_) h
    · obtain ⟨m, z, rfl⟩ := zbAppend_writes (onPayload_ok hu)
      exact ⟨rfl, rfl, rfl⟩
    · exact List.mem_cons.mpr ((onPayload_raise hr).imp_right zbAppend_raise)
  | defilt =>
    refine completion_of_finish nofun (fun u hu => ?_) (fun _ _ => defiltBody_raise) h
    obtain ⟨m, rfl⟩ := defiltBody_writes hu
    exact ⟨rfl, rfl, rfl⟩
  | fltByte =>
    refine completion_of_finish nofun (fun u hu => ?_) (fun _ _ hr => .row (fltByteBody_raise hr)) h
    obtain ⟨r, rfl⟩ := fltByteBody_writes hu
    exact ⟨rfl, rfl, rfl⟩
  | sample =>
    refine completion_of_finish nofun (fun u hu => ?_) (fun _ _ => sampleBody_raise) h
    obtain ⟨r, rfl⟩ := sampleBody_writes hu
    exact ⟨rfl, rfl, rfl⟩
  | conv =>
    refine completion_of_finish nofun (fun u hu => ?_) (fun _ _ hr => .row (convBody_raise hr)) h
    obtain ⟨m, rfl⟩ := convBody_writes hu
    exact ⟨rfl, rfl, rfl⟩

end

/-! ### The rules of every completion -/

/-- Settles O45: an error completion starts again from the state before the command. -/
theorem errorsArePrecise : Obligations.ErrorsArePrecise := by
  intro i s t h herr
  cases completion_of_exec h with
  | sreset | success => cases herr
  | error he hq hcrc => exact ⟨rfl, hq, hcrc⟩

/-- Settles O46: the status of each of the three completions. -/
theorem completionStatus : Obligations.CompletionStatus := by
  intro i s t h
  cases completion_of_exec h with
  | sreset => exact ⟨rfl, rfl, rfl, rfl, fun _ => ⟨rfl, rfl⟩, nofun⟩
  | success hi hu =>
    rw [if_neg hi, if_neg hi]
    exact ⟨rfl, rfl, rfl, (congrArg Status.overrun hu.status :), fun _ => ⟨rfl, hu.errInfo⟩, nofun⟩
  | @error _ e info he =>
    have hi : i ≠ .sreset := by
      rintro rfl
      obtain h | - := he
      cases h
    rw [if_neg hi, if_neg hi]
    obtain ⟨hge, hle⟩ := errorCode_range e
    exact ⟨rfl, rfl, rfl, rfl, nofun, fun _ => ⟨hge, hle, mt (errorCode_eq_seven_iff e).mp he.ne_decompressionFailed⟩⟩

/-- An error as the host reads it: (`ERRCODE`, `ERR_INFO`). -/
def errorPair (p : ErrorKind × Word) : Nat × Nat := ((errorCode p.1).toNat, p.2.toNat)

/-- Settles O47: the row of the command, and `DEFILT`'s bad row; a state of the invariant in BODY has a header, and a
well-formed `SAMPLE` a legal depth. -/
theorem errorsEachCommandCanRaise : Obligations.ErrorsEachCommandCanRaise := by
  intro i s t hwf hinv h herr
  cases completion_of_exec h with
  | sreset | success => cases herr
  | error he =>
    cases he with
    | row hmem =>
      have hpair := List.mem_map_of_mem (f := errorPair) hmem
      cases i with
      | nop | sreset | crcInit | crcByte | crcFinal => cases hpair
      | crcMem | frStart | sample | fltByte => exact List.mem_singleton.mp hpair
      | defilt => exact .inl hpair
      | _ => exact hpair
    | @badFilterTag y hy =>
      have hrow : (BitVec.ofNat 32 y).toNat ≤ y := by
        rw [BitVec.toNat_ofNat]
        exact Nat.mod_le y _
      exact .inr ⟨rfl, hrow.trans_lt hy⟩
    | chunkWithoutHeader hbody hv => cases hv.symm.trans (hinv.seqHeader (.inl hbody))
    | illegalDepth hd => cases hd.symm.trans hwf

/-! ### The interrupt line -/

/-- 60_exceptions.md R412: every completion sets `DONE` and keeps `CTRL`. -/
theorem irq_of_exec {i : Instr} {s t : State} (h : exec i s = .next t) : t.irq = s.ctrl.irqEn := by
  cases completion_of_exec h with
  | sreset | error => rfl
  | success hi hu => exact congrArg Ctrl.irqEn hu.ctrl

/-- Settles O51: every completion sets `DONE`, and each of the three writes clears `DONE` or `IRQ_EN`. -/
theorem interruptLineFollowsDone : Obligations.InterruptLineFollowsDone := by
  refine ⟨fun _ => rfl, fun _ _ _ => irq_of_exec, fun s t ts v h => ⟨fun hts hidle => ?_, fun hts hbit => ?_,
    fun hts hbit => ?_⟩⟩
  · obtain rfl := Host.Outcome.next.inj ((step_writeReg (r := .cmd) hts fun _ => rfl).symm.trans h)
    simp [State.irq, writeReg, writeCmd, hidle]
  · obtain rfl := Host.Outcome.next.inj ((step_writeReg (r := .status) hts fun _ => rfl).symm.trans h)
    simp [State.irq, writeReg, hbit]
  · obtain rfl := Host.Outcome.next.inj ((step_writeReg (r := .ctrl) hts fun _ => rfl).symm.trans h)
    exact (congrArg (s.status.done && ·) hbit).trans (Bool.and_false _)

/-! ### The failed stream -/

/-- In FAILED the framer commands leave the sequencer as it is. -/
theorem exec_keeps_failed {i : Instr} {s t : State} (hq : s.seq.state = .failed) (h : exec i s = .next t)
    (hstart : i ≠ .frStart) (hsreset : i ≠ .sreset) : t.seq.state = .failed := by
  by_cases hsig : i = .frSig
  · subst hsig
    obtain rfl := Host.Outcome.next.inj ((exec_frSig_of_ne_expectSig (by simp [hq])).symm.trans h)
    exact hq
  by_cases hchunk : i = .frChunk
  · subst hchunk
    obtain rfl := Host.Outcome.next.inj ((exec_frChunk_of_not_started (by simp [hq])).symm.trans h)
    exact hq
  · exact (congrArg Seq.state (exec_keeps_seq h hsreset hstart hsig hchunk)).trans hq

/-- Settles O24: FAILED is none of the states in which the four commands run, and the others keep the sequencer. -/
theorem failedStreamIsLeftByFrStartOrSreset : Obligations.FailedStreamIsLeftByFrStartOrSreset := by
  intro i s t hq h
  have hopen : ¬(s.seq.state = .idle ∨ s.seq.state = .done) := by simp [hq]
  refine ⟨?_, ?_, fun hleft => ?_⟩
  · rintro (rfl | rfl)
    · exact Host.Outcome.next.inj (h.symm.trans (exec_frSig_of_ne_expectSig (by simp [hq])))
    · exact Host.Outcome.next.inj (h.symm.trans (exec_frChunk_of_not_started (by simp [hq])))
  · rintro (rfl | rfl)
    · exact Host.Outcome.next.inj (h.symm.trans (congrArg (finish s) (defiltBody_of_open hopen)))
    · exact Host.Outcome.next.inj (h.symm.trans (congrArg (finish s) (convBody_of_open hopen)))
  · by_contra hother
    obtain ⟨hstart, hsreset⟩ := not_or.mp hother
    exact hleft (exec_keeps_failed hq h hstart hsreset)

/-! ### `STATUS` written by the host, and `OVERRUN` -/

/-- A flag that is cleared by writing one. -/
theorem and_not_eq_ite (flag b : Bool) : (flag && !b) = if b then false else flag := by
  cases b <;> simp

/-- Settles O50: the write reaches `STATUS` busy or not, and a busy state of the invariant has `DONE` clear. -/
theorem statusIsWriteOneToClear : Obligations.StatusIsWriteOneToClear := by
  intro s ts v hts
  refine ⟨_, step_writeReg (r := .status) hts fun _ => rfl, rfl, and_not_eq_ite _ _, and_not_eq_ite _ _,
    fun hinv hbusy => ?_⟩
  obtain ⟨hdone, -⟩ := hinv.busyClear hbusy
  simp [writeReg, hdone]

/-- `SRESET` has one word (30_encoding.md R144). -/
theorem word_of_decode_sreset {w : Word} (h : decode w = .ok .sreset) : w = 0x00000001 :=
  BitVec.and_allOnes.symm.trans ((decode_eq_ok_iff_eq_matchOf w rfl).mp h)

/-- Every completion but that of `SRESET` keeps `OVERRUN`, and so do an idle engine and a word that is no command. -/
theorem engineStep_clears_overrun {s t : State} (h : engineStep s = .next t) (hset : s.status.overrun = true)
    (hclear : t.status.overrun = false) : s.latch = some 0x00000001 := by
  rcases engineStep_cases h with ⟨-, rfl⟩ | ⟨w, e, -, -, rfl⟩ | ⟨w, i, hw, hd, hexec⟩
  · cases hset.symm.trans hclear
  · cases hset.symm.trans hclear
  · by_cases hi : i = .sreset
    · subst hi
      exact hw.trans (congrArg some (word_of_decode_sreset hd))
    · obtain ⟨-, -, -, hkeep, -⟩ := completionStatus i s t hexec
      rw [if_neg hi] at hkeep
      cases hset.symm.trans (hkeep.symm.trans hclear)

theorem writeReg_clears_overrun {s : State} {r : Reg} {v : Word} (hset : s.status.overrun = true)
    (hclear : (writeReg s r v).status.overrun = false) : r = .status ∧ v.getLsbD 3 = true := by
  cases r with
  | status => simpa [writeReg, hset] using hclear
  | cmd =>
    simp only [writeReg, writeCmd] at hclear
    split at hclear
    · cases hclear
    · cases hset.symm.trans hclear
  | _ => cases hset.symm.trans hclear

theorem hostStep_clears_overrun {a : HostAction} {s t : State} (h : hostStep a s = .next t)
    (hset : s.status.overrun = true) (hclear : t.status.overrun = false) :
    (∃ v, a = .writeReg (s.params.regBase + 0x008) 4 v ∧ v.getLsbD 3 = true) ∨ a = .hardwareReset := by
  rcases hostStep_cases h with ⟨off, -, -, -, -, ⟨-, rfl⟩ | ⟨r, -, rfl⟩⟩ |
    ⟨off, v, rfl, -, -, -, ⟨-, rfl⟩ | ⟨r, hr, rfl⟩⟩ | ⟨addr, -, -, -, rfl⟩ | ⟨addr, b, -, -, -, rfl⟩ | ⟨rfl, -⟩
  case inr.inl.inr =>
    obtain ⟨rfl, hbit⟩ := writeReg_clears_overrun hset hclear
    obtain rfl := (regAt_eq_some_iff _ _).mp hr
    exact .inl ⟨v, rfl, hbit⟩
  case inr.inr.inr.inr => exact .inr rfl
  all_goals cases hset.symm.trans hclear

/-- Settles O49: the engine clears `OVERRUN` by the word of `SRESET`, the host by a write of `STATUS` or the reset. -/
theorem overrunStaysUntilCleared : Obligations.OverrunStaysUntilCleared := by
  intro s t h hset hclear
  rcases step_cases h with ⟨hts, he⟩ | ⟨ts, hts, he⟩ | ⟨a, ts, hts, hh⟩
  · exact .inr (.inr ⟨engineStep_clears_overrun he hset hclear, .inl hts⟩)
  · exact .inr (.inr ⟨(engineStep_clears_overrun he hset hclear :), .inr ⟨ts, hts⟩⟩)
  · rcases hostStep_clears_overrun hh hset hclear with ⟨v, rfl, hbit⟩ | rfl
    · exact .inl ⟨ts, v, hts, hbit⟩
    · exact .inr (.inl ⟨ts, hts⟩)

end Sys2Proof.Machine
end

section
/-! Settles O3, O58, O5 and O8 (30_encoding.md R140 to R145, 70_reset_and_hazards.md R440, R455, R460): decoder and encoder
as inverses, the engine's step on any latched word, and the register reset as a step and at power-on. -/

namespace Sys2Proof.Machine

/-! ### Decoder and encoder -/

/-- Settles O3: a word decodes to a command when it has the command's fields, which are those of the encoded word, and
the three fields are the word. -/
theorem decodeEncodeRoundTrip : Obligations.DecodeEncodeRoundTrip := by
  refine ⟨fun i hwf => ?_, fun w i hd => ?_⟩
  · obtain ⟨hop, himm, hrsv⟩ := Laws.encode_fields i
    exact (decode_eq_ok_iff _ i).mpr ⟨hwf, hrsv, himm, hop⟩
  · obtain ⟨hwf, hrsv, himm, hop⟩ := (decode_eq_ok_iff w i).mp hd
    obtain ⟨hop', himm', hrsv'⟩ := Laws.encode_fields i
    exact ⟨hwf, (word_ext_iff _ w).mpr
      ⟨hrsv'.trans hrsv.symm, himm'.trans himm.symm, hop'.trans hop.symm⟩⟩

/-! ### The engine's step -/

/-- With nothing scheduled the engine moves (assumption log 4). -/
theorem step_of_turns_nil {s : State} (h : s.turns = []) : step s = engineStep s := by
  simp only [step, h]

/-- 60_exceptions.md R422: an idle engine holds its state. -/
theorem engineStep_of_latch_empty {s : State} (h : s.latch = none) : engineStep s = .next s := by
  simp only [engineStep, h]

/-- 70_reset_and_hazards.md R455: a latched word completes, with the error completion when it is no command. -/
theorem engineStep_completes {s : State} {w : Word} (hinv : BlockInv s) (hw : s.latch = some w) :
    ∃ t, engineStep s = .next t ∧ t.latch = none ∧ t.status.busy = false ∧ t.status.done = true := by
  cases hd : decode w with
  | error e => exact ⟨_, engineStep_of_decode_error hw hd, rfl, rfl, rfl⟩
  | ok i =>
    obtain ⟨t, ht, -⟩ := exec_completesInInv hinv i
    obtain ⟨hbusy, hdone, hlatch, -⟩ := completionStatus i s t ht
    exact ⟨t, (engineStep_of_decode_ok hw hd).trans ht, hlatch, hbusy, hdone⟩

/-- Settles O58: taking the engine's turn off the schedule keeps the invariant and the latch. -/
theorem everyAcceptedCommandCompletes : Obligations.EveryAcceptedCommandCompletes := by
  rintro s w hinv hw (hts | ⟨ts, hts⟩)
  · rw [step_of_turns_nil hts]
    exact engineStep_completes hinv hw
  · rw [step_engine (.inr hts)]
    exact engineStep_completes (hinv.withTurns ts) hw

/-- Settles O5: the engine's step on a full and on an empty latch, at either place of the engine's turn. -/
theorem stepRunsTheLatchedCommand : Obligations.StepRunsTheLatchedCommand := by
  refine ⟨fun s w i hw hd => ⟨fun hts => ?_, fun ts hts => ?_⟩, fun s hnone => ⟨fun hts => ?_, fun ts hts => ?_⟩⟩
  · exact (step_of_turns_nil hts).trans (engineStep_of_decode_ok hw hd)
  · exact (step_engine (.inr hts)).trans (engineStep_of_decode_ok hw hd)
  · exact (step_of_turns_nil hts).trans (engineStep_of_latch_empty hnone)
  · exact (step_engine (.inr hts)).trans (engineStep_of_latch_empty hnone)

/-! ### The hardware reset -/

/-- Settles O8: both the reset step and power-on give the register reset, over the memory kept or the one drawn. -/
theorem hardwareResetResult : Obligations.HardwareResetResult := by
  refine ⟨fun s ts hts => ⟨_, step_host hts, ⟨fun r => ?_, rfl, rfl⟩, rfl, rfl, rfl, rfl⟩,
    fun p drawn => ⟨⟨fun r => ?_, rfl, rfl⟩, rfl, fun a ha => memByte_drawMemory drawn ha⟩⟩
  · exact readReg_resetRegisters _ r
  · exact readReg_resetWith p _ r

end Sys2Proof.Machine
end
